-- ==== Sys2Proof/Word.lean ====
section
/-! DEFINITION. The word types of the block: 32-bit register values, 8-bit fields, and the index of a CPU (spec/00 R7, R9). -/

namespace Sys2Proof

/-- A register value (R9: every register value is an unsigned 32-bit word). -/
abbrev Word := BitVec 32

/-- An 8-bit priority, target mask or identification byte. -/
abbrev Byte := BitVec 8

/-- The index of a CPU interface. `NCPU` is at most 8 (R7, D6); an index at or above `NCPU` names no CPU. -/
abbrev CpuId := Fin 8

end Sys2Proof
end

