-- ==== Sys2Proof/Syntax.lean ====
section
/-! DEFINITION. What an access is made of (spec/30 R100, R101) and the one inductive of the 38 register accesses of
spec/opcode_table.json. -/

namespace Sys2Proof

/-- The two register windows (R80). -/
inductive Win where
  | dist
  | cpuif
deriving DecidableEq, Repr

/-- The direction of an access (R100). -/
inductive Dir where
  | rd
  | wr
deriving DecidableEq, Repr

/-- One admitted register access: one constructor per row of the opcode table. `k` is the word index of an array
register and `v` the written data (R102); the issuing CPU is not an operand but the context the access runs in (R100). -/
inductive Instr where
  | rdIcddcr
  | wrIcddcr (v : Word)
  | rdIcdictr
  | rdIcdiidr
  | rdIcdisr (k : Nat)
  | wrIcdisr (k : Nat) (v : Word)
  | rdIcdiser (k : Nat)
  | wrIcdiser (k : Nat) (v : Word)
  | rdIcdicer (k : Nat)
  | wrIcdicer (k : Nat) (v : Word)
  | rdIcdispr (k : Nat)
  | wrIcdispr (k : Nat) (v : Word)
  | rdIcdicpr (k : Nat)
  | wrIcdicpr (k : Nat) (v : Word)
  | rdIcdabr (k : Nat)
  | rdIcdipr (k : Nat)
  | wrIcdipr (k : Nat) (v : Word)
  | rdIcdiptr (k : Nat)
  | wrIcdiptr (k : Nat) (v : Word)
  | rdIcdicfr (k : Nat)
  | wrIcdicfr (k : Nat) (v : Word)
  | wrIcdsgir (v : Word)
  | rdPidr47 (k : Nat)
  | rdPidr03 (k : Nat)
  | rdCidr (k : Nat)
  | rdIccicr
  | wrIccicr (v : Word)
  | rdIccpmr
  | wrIccpmr (v : Word)
  | rdIccbpr
  | wrIccbpr (v : Word)
  | rdIcciar
  | wrIcceoir (v : Word)
  | rdIccrpr
  | rdIcchpir
  | rdIccabpr
  | wrIccabpr (v : Word)
  | rdIcciidr
deriving DecidableEq, Repr

end Sys2Proof
end

