-- ==== Sys2Proof/WellFormed.lean ====
section
/-! DEFINITION. Which terms of `Instr` are accesses of the register map: the word index of an array register lies
inside the array (spec/30 R104). -/

namespace Sys2Proof

/-- How many words the register of an access has: the index range of R104; 1 for a single register. -/
def Instr.words : Instr → Nat
  | .rdIcdisr _ | .wrIcdisr _ _ | .rdIcdicer _ | .wrIcdicer _ _ | .rdIcdabr _ => 8
  | .rdIcdiser _ | .wrIcdiser _ _ | .rdIcdispr _ | .wrIcdispr _ _ | .rdIcdicpr _ | .wrIcdicpr _ _ => 32
  | .rdIcdipr _ | .wrIcdipr _ _ | .rdIcdiptr _ | .wrIcdiptr _ _ => 64
  | .rdIcdicfr _ | .wrIcdicfr _ _ => 16
  | .rdPidr47 _ | .rdPidr03 _ | .rdCidr _ => 4
  | .rdIcddcr | .wrIcddcr _ | .rdIcdictr | .rdIcdiidr | .wrIcdsgir _ | .rdIccicr | .wrIccicr _ | .rdIccpmr
  | .wrIccpmr _ | .rdIccbpr | .wrIccbpr _ | .rdIcciar | .wrIcceoir _ | .rdIccrpr | .rdIcchpir | .rdIccabpr
  | .wrIccabpr _ | .rdIcciidr => 1

/-- The word index of an access; 0 for a single register (R102). -/
def Instr.index : Instr → Nat
  | .rdIcdisr k | .wrIcdisr k _ | .rdIcdicer k | .wrIcdicer k _ | .rdIcdabr k => k
  | .rdIcdiser k | .wrIcdiser k _ | .rdIcdispr k | .wrIcdispr k _ | .rdIcdicpr k | .wrIcdicpr k _ => k
  | .rdIcdipr k | .wrIcdipr k _ | .rdIcdiptr k | .wrIcdiptr k _ => k
  | .rdIcdicfr k | .wrIcdicfr k _ => k
  | .rdPidr47 k | .rdPidr03 k | .rdCidr k => k
  | .rdIcddcr | .wrIcddcr _ | .rdIcdictr | .rdIcdiidr | .wrIcdsgir _ | .rdIccicr | .wrIccicr _ | .rdIccpmr
  | .wrIccpmr _ | .rdIccbpr | .wrIccbpr _ | .rdIcciar | .wrIcceoir _ | .rdIccrpr | .rdIcchpir | .rdIccabpr
  | .wrIccabpr _ | .rdIcciidr => 0

/-- An access of the register map: its word index is one its array has (R104, R105). -/
def Instr.wellFormed (i : Instr) : Bool := decide (i.index < i.words)

end Sys2Proof
end

