-- ==== Sys2Proof/Decode.lean ====
section
/-! DEFINITION. The access key, the opcode table, the decoder of an access, and the encoder (spec/30 R101 to R112). -/

namespace Sys2Proof

/-- Why an access is no instruction (R109): the four decode faults, and two rejections of a byte record that is no
access at all (the record is the model's own layout, log 11). -/
inductive DecodeError where
  /-- F2: not 32 bits wide, or the offset is no multiple of 4 (R84). -/
  | badWidthOrAlignment
  /-- F3: a write of a read-only register. -/
  | writeToReadOnly
  /-- F4: a read of a write-only register. -/
  | readOfWriteOnly
  /-- F1: an offset outside the register map (R87). -/
  | unmappedOffset
  /-- A record of other than six bytes. -/
  | recordLength
  /-- A record whose key has a bit above bit 13. -/
  | keyTooWide
deriving DecidableEq, Repr

def Dir.bit : Dir → BitVec 1
  | .rd => 0
  | .wr => 1

def Win.bit : Win → BitVec 1
  | .dist => 0
  | .cpuif => 1

def Dir.other : Dir → Dir
  | .rd => .wr
  | .wr => .rd

/-- The access key (R101): direction in bit 13, window in bit 12, offset in bits 11..0. -/
def keyOf (dir : Dir) (win : Win) (off : BitVec 12) : BitVec 14 := dir.bit ++ (win.bit ++ off)

/-- One row of spec/opcode_table.json: it selects an access when `key &&& mask = pattern`, and builds it from the key
and the written data. -/
structure Row where
  pattern : BitVec 14
  mask : BitVec 14
  build : BitVec 14 → Word → Instr

/-- The word index an array row reads from its key: `width` bits above bit 1 (R102). -/
def keyIndex (width : Nat) (key : BitVec 14) : Nat := (key.extractLsb' 2 width).toNat

def rowsDistGlobal : List Row := [
  ⟨0x0000, 0x3FFF, fun _ _ => .rdIcddcr⟩,
  ⟨0x2000, 0x3FFF, fun _ v => .wrIcddcr v⟩,
  ⟨0x0004, 0x3FFF, fun _ _ => .rdIcdictr⟩,
  ⟨0x0008, 0x3FFF, fun _ _ => .rdIcdiidr⟩]

def rowsLineBits : List Row := [
  ⟨0x0080, 0x3FE3, fun key _ => .rdIcdisr (keyIndex 3 key)⟩,
  ⟨0x2080, 0x3FE3, fun key v => .wrIcdisr (keyIndex 3 key) v⟩,
  ⟨0x0100, 0x3F83, fun key _ => .rdIcdiser (keyIndex 5 key)⟩,
  ⟨0x2100, 0x3F83, fun key v => .wrIcdiser (keyIndex 5 key) v⟩,
  ⟨0x0180, 0x3FE3, fun key _ => .rdIcdicer (keyIndex 3 key)⟩,
  ⟨0x2180, 0x3FE3, fun key v => .wrIcdicer (keyIndex 3 key) v⟩,
  ⟨0x0200, 0x3F83, fun key _ => .rdIcdispr (keyIndex 5 key)⟩,
  ⟨0x2200, 0x3F83, fun key v => .wrIcdispr (keyIndex 5 key) v⟩,
  ⟨0x0280, 0x3F83, fun key _ => .rdIcdicpr (keyIndex 5 key)⟩,
  ⟨0x2280, 0x3F83, fun key v => .wrIcdicpr (keyIndex 5 key) v⟩,
  ⟨0x0300, 0x3FE3, fun key _ => .rdIcdabr (keyIndex 3 key)⟩]

def rowsLineFields : List Row := [
  ⟨0x0400, 0x3F03, fun key _ => .rdIcdipr (keyIndex 6 key)⟩,
  ⟨0x2400, 0x3F03, fun key v => .wrIcdipr (keyIndex 6 key) v⟩,
  ⟨0x0800, 0x3F03, fun key _ => .rdIcdiptr (keyIndex 6 key)⟩,
  ⟨0x2800, 0x3F03, fun key v => .wrIcdiptr (keyIndex 6 key) v⟩,
  ⟨0x0C00, 0x3FC3, fun key _ => .rdIcdicfr (keyIndex 4 key)⟩,
  ⟨0x2C00, 0x3FC3, fun key v => .wrIcdicfr (keyIndex 4 key) v⟩]

def rowsSgiAndIds : List Row := [
  ⟨0x2F00, 0x3FFF, fun _ v => .wrIcdsgir v⟩,
  ⟨0x0FD0, 0x3FF3, fun key _ => .rdPidr47 (keyIndex 2 key)⟩,
  ⟨0x0FE0, 0x3FF3, fun key _ => .rdPidr03 (keyIndex 2 key)⟩,
  ⟨0x0FF0, 0x3FF3, fun key _ => .rdCidr (keyIndex 2 key)⟩]

def rowsCpuInterface : List Row := [
  ⟨0x1000, 0x3FFF, fun _ _ => .rdIccicr⟩,
  ⟨0x3000, 0x3FFF, fun _ v => .wrIccicr v⟩,
  ⟨0x1004, 0x3FFF, fun _ _ => .rdIccpmr⟩,
  ⟨0x3004, 0x3FFF, fun _ v => .wrIccpmr v⟩,
  ⟨0x1008, 0x3FFF, fun _ _ => .rdIccbpr⟩,
  ⟨0x3008, 0x3FFF, fun _ v => .wrIccbpr v⟩,
  ⟨0x100C, 0x3FFF, fun _ _ => .rdIcciar⟩,
  ⟨0x3010, 0x3FFF, fun _ v => .wrIcceoir v⟩,
  ⟨0x1014, 0x3FFF, fun _ _ => .rdIccrpr⟩,
  ⟨0x1018, 0x3FFF, fun _ _ => .rdIcchpir⟩,
  ⟨0x101C, 0x3FFF, fun _ _ => .rdIccabpr⟩,
  ⟨0x301C, 0x3FFF, fun _ v => .wrIccabpr v⟩,
  ⟨0x10FC, 0x3FFF, fun _ _ => .rdIcciidr⟩]

/-- The 38 rows of the opcode table, in its order. -/
def opcodeRows : List Row :=
  rowsDistGlobal ++ rowsLineBits ++ rowsLineFields ++ rowsSgiAndIds ++ rowsCpuInterface

/-- Whether a row selects a key (R101). -/
def Row.selects (r : Row) (key : BitVec 14) : Bool := key &&& r.mask == r.pattern

/-- The access a key selects, if any row does. -/
def lookup (key : BitVec 14) (data : Word) : Option Instr :=
  (opcodeRows.find? (fun r => r.selects key)).map (fun r => r.build key data)

/-- Decoding an access (R109): total, with F2 before F3 and F4 before F1. -/
def decodeAccess (dir : Dir) (win : Win) (off : BitVec 12) (width : Nat) (data : Word) : Except DecodeError Instr :=
  if width ≠ 32 ∨ off.toNat % 4 ≠ 0 then .error .badWidthOrAlignment
  else
    match lookup (keyOf dir win off) data with
    | some i => .ok i
    | none =>
      match lookup (keyOf dir.other win off) data with
      | some _ => .error (match dir with | .wr => .writeToReadOnly | .rd => .readOfWriteOnly)
      | none => .error .unmappedOffset

/-- Direction, window and byte offset of an access (R104, R105): the first offset of its register plus `4 * k`. -/
def Instr.place : Instr → Dir × Win × Nat
  | .rdIcddcr => (.rd, .dist, 0x000)
  | .wrIcddcr _ => (.wr, .dist, 0x000)
  | .rdIcdictr => (.rd, .dist, 0x004)
  | .rdIcdiidr => (.rd, .dist, 0x008)
  | .rdIcdisr k => (.rd, .dist, 0x080 + 4 * k)
  | .wrIcdisr k _ => (.wr, .dist, 0x080 + 4 * k)
  | .rdIcdiser k => (.rd, .dist, 0x100 + 4 * k)
  | .wrIcdiser k _ => (.wr, .dist, 0x100 + 4 * k)
  | .rdIcdicer k => (.rd, .dist, 0x180 + 4 * k)
  | .wrIcdicer k _ => (.wr, .dist, 0x180 + 4 * k)
  | .rdIcdispr k => (.rd, .dist, 0x200 + 4 * k)
  | .wrIcdispr k _ => (.wr, .dist, 0x200 + 4 * k)
  | .rdIcdicpr k => (.rd, .dist, 0x280 + 4 * k)
  | .wrIcdicpr k _ => (.wr, .dist, 0x280 + 4 * k)
  | .rdIcdabr k => (.rd, .dist, 0x300 + 4 * k)
  | .rdIcdipr k => (.rd, .dist, 0x400 + 4 * k)
  | .wrIcdipr k _ => (.wr, .dist, 0x400 + 4 * k)
  | .rdIcdiptr k => (.rd, .dist, 0x800 + 4 * k)
  | .wrIcdiptr k _ => (.wr, .dist, 0x800 + 4 * k)
  | .rdIcdicfr k => (.rd, .dist, 0xC00 + 4 * k)
  | .wrIcdicfr k _ => (.wr, .dist, 0xC00 + 4 * k)
  | .wrIcdsgir _ => (.wr, .dist, 0xF00)
  | .rdPidr47 k => (.rd, .dist, 0xFD0 + 4 * k)
  | .rdPidr03 k => (.rd, .dist, 0xFE0 + 4 * k)
  | .rdCidr k => (.rd, .dist, 0xFF0 + 4 * k)
  | .rdIccicr => (.rd, .cpuif, 0x00)
  | .wrIccicr _ => (.wr, .cpuif, 0x00)
  | .rdIccpmr => (.rd, .cpuif, 0x04)
  | .wrIccpmr _ => (.wr, .cpuif, 0x04)
  | .rdIccbpr => (.rd, .cpuif, 0x08)
  | .wrIccbpr _ => (.wr, .cpuif, 0x08)
  | .rdIcciar => (.rd, .cpuif, 0x0C)
  | .wrIcceoir _ => (.wr, .cpuif, 0x10)
  | .rdIccrpr => (.rd, .cpuif, 0x14)
  | .rdIcchpir => (.rd, .cpuif, 0x18)
  | .rdIccabpr => (.rd, .cpuif, 0x1C)
  | .wrIccabpr _ => (.wr, .cpuif, 0x1C)
  | .rdIcciidr => (.rd, .cpuif, 0xFC)

def Instr.dir (i : Instr) : Dir := i.place.1
def Instr.win (i : Instr) : Win := i.place.2.1
def Instr.off (i : Instr) : Nat := i.place.2.2

/-- The data a write carries; 0 for a read, which has no data operand (R102). -/
def Instr.data : Instr → Word
  | .wrIcddcr v | .wrIcdsgir v | .wrIccicr v | .wrIccpmr v | .wrIccbpr v | .wrIcceoir v | .wrIccabpr v => v
  | .wrIcdisr _ v | .wrIcdiser _ v | .wrIcdicer _ v | .wrIcdispr _ v | .wrIcdicpr _ v | .wrIcdipr _ v
  | .wrIcdiptr _ v | .wrIcdicfr _ v => v
  | .rdIcddcr | .rdIcdictr | .rdIcdiidr | .rdIcdisr _ | .rdIcdiser _ | .rdIcdicer _ | .rdIcdispr _ | .rdIcdicpr _
  | .rdIcdabr _ | .rdIcdipr _ | .rdIcdiptr _ | .rdIcdicfr _ | .rdPidr47 _ | .rdPidr03 _ | .rdCidr _ | .rdIccicr
  | .rdIccpmr | .rdIccbpr | .rdIcciar | .rdIccrpr | .rdIcchpir | .rdIccabpr | .rdIcciidr => 0

/-- The access key of an access (R101). -/
def Instr.key (i : Instr) : BitVec 14 := keyOf i.dir i.win (BitVec.ofNat 12 i.off)

/-- Byte `j` of a value, least significant first (R83). -/
def byteAt (w j : Nat) : Byte := BitVec.ofNat 8 (w / 256 ^ j)

/-- The number two, four or more bytes spell, least significant first (R83). -/
def ofBytes : List Byte → Nat
  | [] => 0
  | b :: bs => b.toNat + 256 * ofBytes bs

/-- An access as a record of six bytes: the key in two, then the data in four, each least significant byte first.
DESIGN CHOICE (log 11): the block fetches nothing, so no such record exists in it. -/
def Instr.encode (i : Instr) : List Byte :=
  [byteAt i.key.toNat 0, byteAt i.key.toNat 1,
   byteAt i.data.toNat 0, byteAt i.data.toNat 1, byteAt i.data.toNat 2, byteAt i.data.toNat 3]

/-- The decoder of such a record: total on any bytes. -/
def decode (bytes : List Byte) : Except DecodeError Instr :=
  match bytes with
  | [k0, k1, d0, d1, d2, d3] =>
    let key := ofBytes [k0, k1]
    if key ≥ 2 ^ 14 then .error .keyTooWide
    else
      decodeAccess (if key.testBit 13 then .wr else .rd) (if key.testBit 12 then .cpuif else .dist)
        (BitVec.ofNat 12 key) 32 (BitVec.ofNat 32 (ofBytes [d0, d1, d2, d3]))
  | _ => .error .recordLength

/-- The bytes of an access whose low `nbits` bits are `w` and whose other bits are 0. -/
def tableBytes (nbits w : Nat) : List Byte :=
  let x := w % 2 ^ nbits
  [byteAt x 0, byteAt x 1, byteAt x 2, byteAt x 3, byteAt x 4, byteAt x 5]

/-- What the decoder reads from an access whose key is in bits 15..0 of `w` and whose data in bits 47..16 (log 11). -/
def decodeTableWord (nbits w : Nat) : Option Instr :=
  match decode (tableBytes nbits w) with
  | .ok i => some i
  | .error _ => none

/-- The register name of R104 and R105. -/
def Instr.reg : Instr → String
  | .rdIcddcr | .wrIcddcr _ => "ICDDCR"
  | .rdIcdictr => "ICDICTR"
  | .rdIcdiidr => "ICDIIDR"
  | .rdIcdisr _ | .wrIcdisr _ _ => "ICDISR"
  | .rdIcdiser _ | .wrIcdiser _ _ => "ICDISER"
  | .rdIcdicer _ | .wrIcdicer _ _ => "ICDICER"
  | .rdIcdispr _ | .wrIcdispr _ _ => "ICDISPR"
  | .rdIcdicpr _ | .wrIcdicpr _ _ => "ICDICPR"
  | .rdIcdabr _ => "ICDABR"
  | .rdIcdipr _ | .wrIcdipr _ _ => "ICDIPR"
  | .rdIcdiptr _ | .wrIcdiptr _ _ => "ICDIPTR"
  | .rdIcdicfr _ | .wrIcdicfr _ _ => "ICDICFR"
  | .wrIcdsgir _ => "ICDSGIR"
  | .rdPidr47 _ => "PIDR4_7"
  | .rdPidr03 _ => "PIDR0_3"
  | .rdCidr _ => "CIDR"
  | .rdIccicr | .wrIccicr _ => "ICCICR"
  | .rdIccpmr | .wrIccpmr _ => "ICCPMR"
  | .rdIccbpr | .wrIccbpr _ => "ICCBPR"
  | .rdIcciar => "ICCIAR"
  | .wrIcceoir _ => "ICCEOIR"
  | .rdIccrpr => "ICCRPR"
  | .rdIcchpir => "ICCHPIR"
  | .rdIccabpr | .wrIccabpr _ => "ICCABPR"
  | .rdIcciidr => "ICCIIDR"

/-- The mnemonic of an access's row in spec/opcode_table.json. -/
def Instr.mnemonic (i : Instr) : String :=
  (match i.dir with | .rd => "RD_" | .wr => "WR_") ++ i.reg

/-- A value as eight hexadecimal digits. -/
def hexWord (v : Word) : String :=
  "0x" ++ String.ofList ([7, 6, 5, 4, 3, 2, 1, 0].map fun j => Nat.digitChar (v.toNat / 16 ^ j % 16))

/-- The written form of an access (R112), such as `RD DIST.ICDIPR[9]`. -/
def Instr.asm (i : Instr) : String :=
  (match i.dir with | .rd => "RD " | .wr => "WR ") ++ (match i.win with | .dist => "DIST." | .cpuif => "CPUIF.") ++ i.reg ++
  (if i.words = 1 then "" else "[" ++ toString i.index ++ "]") ++
  (match i.dir with | .rd => "" | .wr => ", " ++ hexWord i.data)

end Sys2Proof
end

