-- ==== Sys2Proof/Machine/Addressing.lean ====
section
/-! DEFINITION. The bit-field addressing layer (spec/40 R130 to R139). -/

namespace Sys2Proof

namespace Machine

/-- The packing densities: fields per 32-bit word (R130, C1). -/
inductive Density where
  | d1 | d2 | d4 | d8 | d16 | d32
deriving DecidableEq, Repr

/-- How many fields one word holds. -/
def Density.fields : Density → Nat
  | .d1 => 1 | .d2 => 2 | .d4 => 4 | .d8 => 8 | .d16 => 16 | .d32 => 32

/-- `w(d)`, the width of one field (R130). -/
def Density.width (d : Density) : Nat := 32 / d.fields

/-- R131. -/
def wordIndex (n : Nat) (d : Density) : Nat := n / d.fields

/-- R132. -/
def byteOffset (n : Nat) (d : Density) : Nat := 4 * wordIndex n d

/-- R133. -/
def bitShift (n : Nat) (d : Density) : Nat := n % d.fields * d.width

/-- R134: the mask is computed on unbounded numbers, so density 1 gives 0xFFFFFFFF. -/
def bitMask (n : Nat) (d : Density) : Word := BitVec.ofNat 32 ((2 ^ d.width - 1) * 2 ^ bitShift n d)

/-- R136. -/
def fieldGet (word : Word) (n : Nat) (d : Density) : Word := (word &&& bitMask n d) >>> bitShift n d

/-- R137. -/
def fieldPut (word : Word) (n : Nat) (d : Density) (v : Word) : Word :=
  (word &&& ~~~ bitMask n d) ||| ((v <<< bitShift n d) &&& bitMask n d)

/-- The three bitset operations of density 32 (R135). -/
def bitSet (word : Word) (n : Nat) : Word := word ||| bitMask n .d32
def bitClear (word : Word) (n : Nat) : Word := word &&& ~~~ bitMask n .d32
def bitTest (word : Word) (n : Nat) : Bool := word &&& bitMask n .d32 != 0

/-- The per-line arrays of the Distributor, for the lookup of R138 and R139. -/
inductive LineArray where
  | security | setEnable | clearEnable | setPending | clearPending | active | priority | targets | configuration
deriving DecidableEq, Repr

/-- R139. -/
def LineArray.density : LineArray → Density
  | .security | .setEnable | .clearEnable | .setPending | .clearPending | .active => .d32
  | .priority | .targets => .d4
  | .configuration => .d16

/-- The window offset of an array's first word (R104). -/
def LineArray.region : LineArray → Nat
  | .security => 0x080
  | .setEnable => 0x100
  | .clearEnable => 0x180
  | .setPending => 0x200
  | .clearPending => 0x280
  | .active => 0x300
  | .priority => 0x400
  | .targets => 0x800
  | .configuration => 0xC00

/-- The register classes of R139. -/
inductive RegisterClass where
  | lines (a : LineArray)
  | single
deriving DecidableEq, Repr

/-- R139: the density of a register class. -/
def RegisterClass.density : RegisterClass → Density
  | .lines a => a.density
  | .single => .d1

/-- The address of the word that holds ID `n`'s field, in the window that begins at `base` (R138). -/
def LineArray.address (a : LineArray) (base n : Nat) : Nat := base + a.region + byteOffset n a.density

end Machine

/-- The class of an access's register, as the map has it (R103 to R105). -/
def Instr.registerClass : Instr → Machine.RegisterClass
  | .rdIcdisr _ | .wrIcdisr _ _ => .lines .security
  | .rdIcdiser _ | .wrIcdiser _ _ => .lines .setEnable
  | .rdIcdicer _ | .wrIcdicer _ _ => .lines .clearEnable
  | .rdIcdispr _ | .wrIcdispr _ _ => .lines .setPending
  | .rdIcdicpr _ | .wrIcdicpr _ _ => .lines .clearPending
  | .rdIcdabr _ => .lines .active
  | .rdIcdipr _ | .wrIcdipr _ _ => .lines .priority
  | .rdIcdiptr _ | .wrIcdiptr _ _ => .lines .targets
  | .rdIcdicfr _ | .wrIcdicfr _ _ => .lines .configuration
  | .rdIcddcr | .wrIcddcr _ | .rdIcdictr | .rdIcdiidr | .wrIcdsgir _ | .rdPidr47 _ | .rdPidr03 _ | .rdCidr _
  | .rdIccicr | .wrIccicr _ | .rdIccpmr | .wrIccpmr _ | .rdIccbpr | .wrIccbpr _ | .rdIcciar | .wrIcceoir _ | .rdIccrpr
  | .rdIcchpir | .rdIccabpr | .wrIccabpr _ | .rdIcciidr => .single

/-- The density of an access's register (R139). -/
def Instr.density (i : Instr) : Machine.Density := i.registerClass.density

end Sys2Proof
end

