-- ==== Sys2Proof/Config.lean ====
section
/-! DEFINITION. What one implementation of the block fixes (spec/00 R7), and the free values: what the spec leaves to a
draw (spec/45 R238, R240, R245; spec/60 R314; spec/10 R53). -/

namespace Sys2Proof

/-- The parameters of R7. `NCPU` and `ITL` are held by the field the type register shows of them, so that every
value of the type is legal: `NCPU = cpuNumber + 1` (1..8), `MAXL = 32 * (itl + 1)` (32..256). -/
structure Params where
  /-- `NCPU - 1`, the CPUNumber field of ICDICTR. -/
  cpuNumber : Fin 8
  /-- `ITL`, the ITLinesNumber field of ICDICTR. -/
  itl : Fin 8
  /-- `LSPI`, the number of lockable SPIs reported. -/
  lspi : Fin 32
  /-- Physical address of the Distributor window, 4 KiB-aligned. -/
  distBase : Nat
  /-- Physical address of the CPU Interface window, 256-byte-aligned. -/
  cpuifBase : Nat
  distIidr : Word
  cpuifIidr : Word
  pidr : Vector Byte 8
  cidr : Vector Byte 4
deriving DecidableEq, Repr

/-- The parameter set of the test vectors of spec/95 (NCPU 4, ITL 2, LSPI 0, IIDR 0x0102043B, PIDR[0] 0x90).
DESIGN CHOICE (log 3), unsafe: the window bases, the other identification bytes and the choice of this set for
`State.reset` are the model's; statements hold for every `Params`. -/
def Config.reference : Params where
  cpuNumber := 3
  itl := 2
  lspi := 0
  distBase := 0x1000
  cpuifBase := 0x100
  distIidr := 0x0102043B#32
  cpuifIidr := 0x0102043B#32
  pidr := #v[0x90#8, 0, 0, 0, 0, 0, 0, 0]
  cidr := #v[0, 0, 0, 0]

/-- How many reads in a row that are ready answer late, when the step numbered by the argument is the first of them
(R240, R241, R246). Free value, log 6. -/
opaque Config.drawLateRun : Nat → Nat

/-- The choice among equal-priority candidates at a step (R314). Free value, log 7. -/
opaque Config.drawTie : Nat → Nat

/-- Whether a write of ICCBPR below the minimum is raised to it (R238). Free value, log 8. -/
opaque Config.drawBprMin : Nat → Bool

/-- Whether a write of ICCABPR below the minimum is raised to it (R245). Free value, log 8. -/
opaque Config.drawAbprMin : Nat → Bool

/-- What a reset event at a step leaves in `cfg_ppi[c][n]` (R53, R350). Free value, log 9. -/
opaque Config.drawCfgPpi : Nat → Nat → Nat → BitVec 2

/-- What a reset event at a step leaves in `cfg_spi[n]` (R53, R350). Free value, log 9. -/
opaque Config.drawCfgSpi : Nat → Nat → BitVec 2

/-- What a reset event at a step leaves in `bpr[c]` (R53, R350). Free value, log 9. -/
opaque Config.drawBpr : Nat → Nat → BitVec 3

/-- What a reset event at a step leaves in `abpr[c]` (R53, R350). Free value, log 9. -/
opaque Config.drawAbpr : Nat → Nat → BitVec 3

end Sys2Proof
end

