-- ==== Sys2Proof/Machine/Parameters.lean ====
section
/-! DEFINITION. What follows from the parameters (spec/00 R7, R13), the fixed constants, and what makes a parameter set
legal. -/

namespace Sys2Proof

/-- `NCPU`. -/
def Params.ncpu (p : Params) : Nat := p.cpuNumber.val + 1

/-- `MAXL`, the number of implemented interrupt IDs. -/
def Params.maxl (p : Params) : Nat := 32 * (p.itl.val + 1)

/-- `ALLCPU`, the mask of every implemented CPU (R13). -/
def Params.allCpu (p : Params) : Byte := BitVec.ofNat 8 (2 ^ p.ncpu - 1)

/-- The implemented CPUs, in order. -/
def Params.cpus (p : Params) : List CpuId :=
  ([0, 1, 2, 3, 4, 5, 6, 7] : List CpuId).filter (fun c => decide (c.val < p.ncpu))

/-- The window bases are aligned as R7 asks and the windows do not overlap (R80). -/
def Params.legal (p : Params) : Bool :=
  p.distBase % 0x1000 == 0 && p.cpuifBase % 0x100 == 0 &&
  (decide (p.distBase + 0x1000 ≤ p.cpuifBase) || decide (p.cpuifBase + 0x100 ≤ p.distBase))

namespace Machine

/-- `PRIO_MASK`: the four implemented priority bits (R7). -/
def prioMask : Byte := 0xF0

/-- `BPR_MIN` (R7). -/
def bprMin : BitVec 3 := 3

/-- The least value of ICCABPR that changes the grouping, `BPR_MIN + 1` (R245). -/
def abprMin : BitVec 3 := 4

/-- The ID that means no interrupt is pending (R8). -/
def spuriousId : Word := 1023

/-- The value read when the selected interrupt is Group 1 and `AckCtl` is 0 (R240). -/
def groupOneId : Word := 1022

end Machine

end Sys2Proof
end

