-- ==== Sys2Proof/Machine/Operands.lean ====
section
/-! DEFINITION. The operand forms: which interrupt IDs a word of an array holds and which of its bits are theirs
(spec/42 R170, spec/43 R200), and the fields of the single registers (spec/30 R106). -/

namespace Sys2Proof.Machine

/-- The read value of word `k` of a density-32 array: bit `j` is `f (32 * k + j)`, 0 for an ID at or above `maxl`. -/
def bitword (maxl k : Nat) (f : Nat → Bool) : Word :=
  (List.range 32).foldl (fun w j => if 32 * k + j < maxl ∧ f (32 * k + j) then w ||| (1#32 <<< j) else w) 0

/-- Whether word `k` of a density-32 array, written with `v`, holds a 1 for ID `n` (R170, `foreach_set`). -/
def writesOne (v : Word) (k n : Nat) : Bool := n / 32 == k && v.getLsbD (n % 32)

/-- Whether word `k` of an array of density `d` holds ID `n`'s field. -/
def holdsLine (d : Density) (k n : Nat) : Bool := wordIndex n d == k

/-- The bit word `k` of a density-32 array, written with `v`, gives ID `n`. -/
def writtenBit (v : Word) (n : Nat) : Bool := v.getLsbD (n % 32)

/-- The read value of word `k` of a packed array: field `j` is `f (d * k + j)`, 0 for an ID at or above `maxl`. -/
def fieldword (maxl k : Nat) (d : Density) (f : Nat → Word) : Word :=
  (List.range d.fields).foldl
    (fun w j => if d.fields * k + j < maxl then w ||| (f (d.fields * k + j) <<< (j * d.width)) else w) 0

/-- The priority a written field stores: the implemented bits only (R38, R202, R235). -/
def storedPrio (field : Word) : Byte := field.setWidth 8 &&& prioMask

/-- The target mask a written field stores: the implemented CPUs only (R39, R204). -/
def storedTargets (p : Params) (field : Word) : Byte := field.setWidth 8 &&& p.allCpu

/-- The configuration a word written with `v` gives ID `n` (R206). -/
def writtenCfg (v : Word) (n : Nat) : BitVec 2 := (fieldGet v n .d16).setWidth 2

/-- The IDs of word `k` of ICDICFR whose configuration can be written (R206). -/
def cfgIds (maxl k : Nat) : List Nat :=
  ((List.range 16).map (fun j => 16 * k + j)).filter (fun n => decide (16 ≤ n ∧ n < maxl))

/-- ICDSGIR fields (R106). -/
def sgiId (v : Word) : Nat := (v.extractLsb' 0 4).toNat
def sgiNsatt (v : Word) : Bool := v.getLsbD 15
def sgiList (v : Word) : Byte := v.extractLsb' 16 8
def sgiFilter (v : Word) : BitVec 2 := v.extractLsb' 24 2

/-- The ID field of ICCIAR, ICCEOIR and ICCHPIR (R106). -/
def claimId (v : Word) : Nat := (v.extractLsb' 0 10).toNat

/-- The CPUID field of ICCIAR, ICCEOIR and ICCHPIR (R106). -/
def claimSrc (v : Word) : Nat := (v.extractLsb' 10 3).toNat

/-- `id | (src << 10)` (R240). -/
def claimWord (id : Nat) (src : CpuId) : Word := BitVec.ofNat 32 id ||| (BitVec.ofNat 32 src.val <<< 10)

/-- The mask with the one bit of CPU `c` (R13). -/
def cpuBit (c : CpuId) : Byte := 1#8 <<< c.val

end Sys2Proof.Machine
end

