-- ==== Sys2Proof/Machine/Tab.lean ====
section
/-! DEFINITION. Fixed-length tables: total reads, and updates that say for every index what becomes of its entry. -/

namespace Sys2Proof.Machine

variable {α : Type} {k : Nat}

/-- `updateFrom f i l`: entry number `i + j` of the result is `f (i + j)` of entry `j` of `l`. -/
def updateFrom (f : Nat → α → α) : Nat → List α → List α
  | _, [] => []
  | i, x :: xs => f i x :: updateFrom f (i + 1) xs

theorem updateFrom_length (f : Nat → α → α) (i : Nat) (l : List α) : (updateFrom f i l).length = l.length := by
  induction l generalizing i with
  | nil => rfl
  | cons x xs ih => simp [updateFrom, ih]

/-- Every entry `i` of the table becomes `f i` of what it was. -/
def tabUpdate (f : Nat → α → α) (v : Vector α k) : Vector α k :=
  ⟨(updateFrom f 0 v.toList).toArray, by simp [updateFrom_length]⟩

/-- Entry `i`, or `d` beyond the end. -/
def tabGet (v : Vector α k) (d : α) (i : Nat) : α := if h : i < k then v[i] else d

/-- The table whose entry `i` is `f i`. -/
def tabOf (k : Nat) (f : Nat → α) : Vector α k := tabUpdate (fun i _ => f i) (Vector.replicate k (f 0))

/-- Entry `i` becomes `x`, every other entry stays. -/
def tabSet (v : Vector α k) (i : Nat) (x : α) : Vector α k := tabUpdate (fun j y => if j = i then x else y) v

/-- Entry `c` of a table with one entry per CPU becomes `f c` of what it was. -/
def perCpu (f : CpuId → α → α) (v : Vector α 8) : Vector α 8 :=
  #v[f 0 v[0], f 1 v[1], f 2 v[2], f 3 v[3], f 4 v[4], f 5 v[5], f 6 v[6], f 7 v[7]]

end Sys2Proof.Machine
end

