-- ==== Sys2Proof/Machine/State.lean ====
section
/-! DEFINITION. The state of the block (spec/10), the reasons a step stops (spec/60 R330, R331), and the state after
reset (spec/10 R53, spec/70 R350). -/

namespace Sys2Proof.Machine

/-- The model faults of R330. Raised by an access; recorded in `State.fault`, after which the model halts. All safe: the
model predicts nothing beyond the fault. -/
inductive Fault where
  /-- F1 UNMAPPED_OFFSET (R87, R109): raised by the decode of an access. Safe. -/
  | unmappedOffset
  /-- F2 BAD_WIDTH_OR_ALIGNMENT (R84): raised by the decode of an access. Safe. -/
  | badWidthOrAlignment
  /-- F3 WRITE_TO_READ_ONLY (R109): raised by the decode of an access. Safe. -/
  | writeToReadOnly
  /-- F4 READ_OF_WRITE_ONLY (R109): raised by the decode of an access. Safe. -/
  | readOfWriteOnly
  /-- F5 EOI_MISMATCH (R242): raised by a write of ICCEOIR that does not name the top of the active stack. Safe. -/
  | eoiMismatch
  /-- F6 SGI_FILTER_RESERVED (R220): raised by a write of ICDSGIR with target filter 0b11. Safe. -/
  | sgiFilterReserved
  /-- F7 CONFIG_CHANGE_WHILE_ENABLED (R206): raised by a write of ICDICFR. Safe. -/
  | configChangeWhileEnabled
  /-- F8 MODEL_CHANGE_WITH_STATE (R206): raised by a write of ICDICFR. Safe. -/
  | modelChangeWithState
deriving DecidableEq, Repr

/-- What the model refuses to describe. -/
inductive Refusal where
  /-- An instruction that has no meaning yet, refused in `exec`'s arm. No arm does so. Safe. -/
  | notModelled (mnemonic : String)
  /-- RF1 NONSECURE_ACCESS (R331): raised by a step after an access that was not Secure. Safe. -/
  | nonsecureAccess
  /-- An access by a CPU index at or above `NCPU`: no such CPU issues accesses (R33). Raised by a step. Safe (log 13). -/
  | noSuchCpu
  /-- A level event of an input the block does not have (R300). Raised by a step. Safe (log 13). -/
  | noSuchInput
deriving DecidableEq, Repr

/-- One SGI ID (0..15) in one CPU's banked part of the Distributor. -/
structure SgiLine where
  /-- `sec_b[c][n]`, true for Group 1 (R37). -/
  sec : Bool
  /-- `prio_b[c][n]` (R38). -/
  prio : Byte
  /-- `sgi_pend[c][n][s]`, one bit per source CPU `s` (R41). -/
  pend : Vector Bool 8
  /-- `sgi_act[c][n]`, the source of the active one (R42). -/
  act : Option CpuId
deriving DecidableEq, Repr

/-- One PPI ID (16..31) in one CPU's banked part of the Distributor. -/
structure PpiLine where
  /-- `en_ppi[c][n]` (R36). -/
  en : Bool
  /-- `sec_b[c][n]` (R37). -/
  sec : Bool
  /-- `prio_b[c][n]` (R38). -/
  prio : Byte
  /-- `cfg_ppi[c][n]`: bit 1 edge-triggered, bit 0 the model bit (R40). -/
  cfg : BitVec 2
  /-- `ppi_latch[c][n]` (R43). -/
  latch : Bool
  /-- `ppi_act[c][n]` (R43). -/
  act : Bool
  /-- `ppi_level[c][n]`, the input (R46). -/
  level : Bool
deriving DecidableEq, Repr

/-- One SPI ID (32..MAXL-1). -/
structure SpiLine where
  /-- `en_spi[n]` (R36). -/
  en : Bool
  /-- `sec_spi[n]` (R37). -/
  sec : Bool
  /-- `prio_spi[n]` (R38). -/
  prio : Byte
  /-- `tgt[n]`, bit `c` for CPU `c` (R39). -/
  tgt : Byte
  /-- `cfg_spi[n]`: bit 1 edge-triggered, bit 0 1:N (R40). -/
  cfg : BitVec 2
  /-- `spi_latch1[n]` (R44). -/
  latch1 : Bool
  /-- `spi_act1[n]` (R44). -/
  act1 : Option CpuId
  /-- `spi_latchN[n][c]` (R45). -/
  latchN : Vector Bool 8
  /-- `spi_actN[n][c]` (R45). -/
  actN : Vector Bool 8
  /-- `spi_level[n]`, the input (R46). -/
  level : Bool
deriving DecidableEq, Repr

/-- The banked state of IDs 0..31 of one CPU (R57). -/
structure Bank where
  sgi : Vector SgiLine 16
  ppi : Vector PpiLine 16
deriving DecidableEq, Repr

/-- The CPU Interface Control register (R47). -/
structure Icr where
  enableS : Bool
  enableNS : Bool
  ackCtl : Bool
  fiqEn : Bool
  sbpr : Bool
deriving DecidableEq, Repr

/-- An interrupt instance with the priority it competes at, or had when it was claimed: `(id, src, p)` of R50, R311. -/
structure Entry where
  id : Nat
  src : CpuId
  prio : Byte
deriving DecidableEq, Repr

/-- One CPU interface (R47 to R50). -/
structure CpuIf where
  icr : Icr
  pmr : Byte
  bpr : BitVec 3
  abpr : BitVec 3
  /-- The active stack, newest first (R50). -/
  stk : List Entry
  /-- The model's own: the binary point field of the last write of ICCBPR since reset, whose draw a write of the same
  field repeats (R86, R108; log 23). -/
  bprWritten : Option (BitVec 3)
  /-- The model's own: the same of ICCABPR (R86, R108; log 23). -/
  abprWritten : Option (BitVec 3)
deriving DecidableEq, Repr

/-- An access as a CPU's memory system delivers it (R80, R100): issuer, security attribute, direction, width in bits,
physical address, and the data of a write. -/
structure Request where
  cpu : CpuId
  secure : Bool
  dir : Dir
  width : Nat
  addr : Nat
  data : Word
deriving DecidableEq, Repr

/-- The model's own record of one CPU's reads that were ready and yet answered late: how many in a row so far, and the
number of the step that began them (R241; log 6). -/
structure LateRun where
  since : Nat
  count : Nat
deriving DecidableEq, Repr

/-- What reaches the block, one a step (R300, R320, R350). -/
inductive Event where
  | access (r : Request)
  | setLevelPpi (c : CpuId) (n : Nat) (b : Bool)
  | setLevelSpi (n : Nat) (b : Bool)
  | reset
deriving DecidableEq, Repr

/-- The state of the block, with the model's own bookkeeping after it. -/
structure State where
  /-- The parameters of this machine (R7); no step changes them (log 3). -/
  par : Params
  /-- `dcr_en0` (R34). -/
  dcrEn0 : Bool
  /-- `dcr_en1` (R34). -/
  dcrEn1 : Bool
  /-- The banked Distributor state of each CPU. Entries at or above `NCPU` stand for no hardware (log 14). -/
  bank : Vector Bank 8
  /-- The SPIs: entry `i` is ID `32 + i`. Entries of IDs at or above `MAXL` stand for no hardware (log 14). -/
  spi : Vector SpiLine 224
  /-- The CPU interfaces. Entries at or above `NCPU` stand for no hardware (log 14). -/
  cpuIf : Vector CpuIf 8
  /-- The first fault raised (R52). -/
  fault : Option Fault
  /-- A refused access occurred (R52). -/
  refused : Bool
  /-- The issuer of the access being performed, or of the last one (R100, R342; log 12). -/
  cpu : CpuId
  /-- The value the last access returned to its issuer, if it returned one (R11; log 12). -/
  rdata : Option Word
  /-- The number of the step, which indexes the free values (log 6). -/
  draws : Nat
  /-- The `late` draw of the acknowledge or highest-pending read being performed, or of the last one (R240, R246; log 6). -/
  late : Bool
  /-- Each CPU's late acknowledges in a row (R241; log 6). -/
  ackRun : Vector LateRun 8
  /-- Each CPU's late highest-pending reads in a row (R241; log 6). -/
  peekRun : Vector LateRun 8
  /-- The accesses and events yet to reach the block, oldest first (R88; log 2). -/
  inbox : List Event
deriving DecidableEq, Repr

/-- The levels the input agent drives when the block leaves reset (R350: a launch parameter). -/
structure Levels where
  /-- Entry `i` of CPU `c` is PPI `16 + i`. -/
  ppi : Vector (Vector Bool 16) 8
  /-- Entry `i` is SPI `32 + i`. -/
  spi : Vector Bool 224
deriving DecidableEq, Repr

/-- The values reset leaves where R53 says unspecified, one per field. -/
structure ResetDraw where
  cfgPpi : Vector (Vector (BitVec 2) 16) 8
  cfgSpi : Vector (BitVec 2) 224
  bpr : Vector (BitVec 3) 8
  abpr : Vector (BitVec 3) 8
deriving DecidableEq, Repr

/-- An SGI after reset (R53). -/
def SgiLine.idle : SgiLine := { sec := false, prio := 0, pend := Vector.replicate 8 false, act := none }

/-- A PPI after reset (R53), with its drawn configuration and its input's level. -/
def PpiLine.idle (cfg : BitVec 2) (level : Bool) : PpiLine :=
  { en := false, sec := false, prio := 0, cfg := cfg, latch := false, act := false, level := level }

/-- An SPI after reset (R53), with its drawn configuration and its input's level. -/
def SpiLine.idle (cfg : BitVec 2) (level : Bool) : SpiLine :=
  { en := false, sec := false, prio := 0, tgt := 0, cfg := cfg, latch1 := false, act1 := none,
    latchN := Vector.replicate 8 false, actN := Vector.replicate 8 false, level := level }

/-- A CPU interface after reset (R53), with its drawn binary points. -/
def CpuIf.idle (bpr abpr : BitVec 3) : CpuIf :=
  { icr := { enableS := false, enableNS := false, ackCtl := false, fiqEn := false, sbpr := false },
    pmr := 0, bpr := bpr, abpr := abpr, stk := [], bprWritten := none, abprWritten := none }

/-- No read has answered late. -/
def LateRun.idle : LateRun := { since := 0, count := 0 }

/-- The block right after reset (R53, R350), for every set of parameters, input levels and draws. -/
def State.afterReset (par : Params) (lv : Levels) (d : ResetDraw) : State where
  par := par
  dcrEn0 := false
  dcrEn1 := false
  bank := tabOf 8 fun c =>
    { sgi := Vector.replicate 16 SgiLine.idle
      ppi := tabOf 16 fun i =>
        PpiLine.idle (tabGet (tabGet d.cfgPpi (Vector.replicate 16 0) c) 0 i)
          (tabGet (tabGet lv.ppi (Vector.replicate 16 false) c) false i) }
  spi := tabOf 224 fun i => SpiLine.idle (tabGet d.cfgSpi 0 i) (tabGet lv.spi false i)
  cpuIf := tabOf 8 fun c => CpuIf.idle (tabGet d.bpr 0 c) (tabGet d.abpr 0 c)
  fault := none
  refused := false
  cpu := 0
  rdata := none
  draws := 0
  late := false
  ackRun := Vector.replicate 8 LateRun.idle
  peekRun := Vector.replicate 8 LateRun.idle
  inbox := []

/-- Every input low: the launch levels of the test vectors (spec/95). -/
def Levels.low : Levels :=
  { ppi := Vector.replicate 8 (Vector.replicate 16 false), spi := Vector.replicate 224 false }

/-- Every drawn field 0: the draw of the test vectors (spec/95). -/
def ResetDraw.zero : ResetDraw :=
  { cfgPpi := Vector.replicate 8 (Vector.replicate 16 0), cfgSpi := Vector.replicate 224 0,
    bpr := Vector.replicate 8 0, abpr := Vector.replicate 8 0 }

/-- The machine right after reset: R53 for the parameters, levels and draws of the test vectors. DESIGN CHOICE
(logs 3, 4, 5), unsafe: R53 and R350 allow every level and every draw, which `State.afterReset` states. -/
def State.reset : State := State.afterReset Config.reference Levels.low ResetDraw.zero

end Sys2Proof.Machine
end

