-- ==== Sys2Proof/Machine/Ops.lean ====
section
/-! DEFINITION. The named operations over the state: reading and updating the lines and the CPU interfaces, the banked
views (spec/10 R36 to R40), delivering a read value, and recording a fault or a refusal (spec/60 R330, R331). -/

namespace Sys2Proof.Machine

/-- The two interrupt groups: 0 Secure, 1 Non-secure (R14, R37). -/
inductive Group where
  | g0
  | g1
deriving DecidableEq, Repr

/-- SGI `n` (0..15) of CPU `c`. -/
def State.sgiOf (s : State) (c : CpuId) (n : Nat) : SgiLine := tabGet s.bank[c].sgi SgiLine.idle n

/-- PPI `n` (16..31) of CPU `c`. -/
def State.ppiOf (s : State) (c : CpuId) (n : Nat) : PpiLine := tabGet s.bank[c].ppi (PpiLine.idle 0 false) (n - 16)

/-- SPI `n` (32..MAXL-1). -/
def State.spiOf (s : State) (n : Nat) : SpiLine := tabGet s.spi (SpiLine.idle 0 false) (n - 32)

/-- The CPU interface of CPU `c`. -/
def State.ifOf (s : State) (c : CpuId) : CpuIf := s.cpuIf[c]

/-- Every SGI `n` of every CPU `c` becomes `f c n` of what it was. -/
def State.updSgis (s : State) (f : CpuId → Nat → SgiLine → SgiLine) : State :=
  { s with bank := perCpu (fun c b => { b with sgi := tabUpdate (f c) b.sgi }) s.bank }

/-- Every SGI `n` of CPU `c` becomes `f n` of what it was: an access by `c` reaches `c`'s copy alone (R57). -/
def State.updSgi (s : State) (c : CpuId) (f : Nat → SgiLine → SgiLine) : State :=
  s.updSgis (fun c2 n l => if c2 = c then f n l else l)

/-- Every PPI `n` of one CPU's bank becomes `f n` of what it was. -/
def Bank.updPpi (b : Bank) (f : Nat → PpiLine → PpiLine) : Bank :=
  { b with ppi := tabUpdate (fun i l => f (i + 16) l) b.ppi }

/-- Every PPI `n` of CPU `c` becomes `f n` of what it was (R57). -/
def State.updPpi (s : State) (c : CpuId) (f : Nat → PpiLine → PpiLine) : State :=
  { s with bank := perCpu (fun c2 b => if c2 = c then b.updPpi f else b) s.bank }

/-- Every implemented SPI `n` becomes `f n` of what it was: IDs at or above `MAXL` have no state (R57). -/
def State.updSpi (s : State) (f : Nat → SpiLine → SpiLine) : State :=
  { s with spi := tabUpdate (fun i l => if i + 32 < s.par.maxl then f (i + 32) l else l) s.spi }

/-- The CPU interface of `c` becomes `f` of what it was; no other is reached (R82). -/
def State.updIf (s : State) (c : CpuId) (f : CpuIf → CpuIf) : State :=
  { s with cpuIf := perCpu (fun c2 i => if c2 = c then f i else i) s.cpuIf }

/-- `en(c, n)` (R36): SGIs are always enabled. -/
def State.en (s : State) (c : CpuId) (n : Nat) : Bool :=
  if n < 16 then true else if n < 32 then (s.ppiOf c n).en else (s.spiOf n).en

/-- `sec(c, n)` (R37), true for 1. -/
def State.sec (s : State) (c : CpuId) (n : Nat) : Bool :=
  if n < 16 then (s.sgiOf c n).sec else if n < 32 then (s.ppiOf c n).sec else (s.spiOf n).sec

/-- `grp(c, n)` (R37). -/
def State.grp (s : State) (c : CpuId) (n : Nat) : Group := if s.sec c n then .g1 else .g0

/-- `prio(c, n)` (R38). -/
def State.prio (s : State) (c : CpuId) (n : Nat) : Byte :=
  if n < 16 then (s.sgiOf c n).prio else if n < 32 then (s.ppiOf c n).prio else (s.spiOf n).prio

/-- `cfg(c, n)` (R40): 0b10 for SGIs. -/
def State.cfgOf (s : State) (c : CpuId) (n : Nat) : BitVec 2 :=
  if n < 16 then 0b10 else if n < 32 then (s.ppiOf c n).cfg else (s.spiOf n).cfg

/-- `edge(c, n)` (R40). -/
def State.isEdge (s : State) (c : CpuId) (n : Nat) : Bool := (s.cfgOf c n).getLsbD 1

/-- `level(c, n)` (R40). -/
def State.isLevel (s : State) (c : CpuId) (n : Nat) : Bool := !s.isEdge c n

/-- `oneN(c, n)` (R40). -/
def State.oneN (s : State) (c : CpuId) (n : Nat) : Bool := (s.cfgOf c n).getLsbD 0

/-- `dcr_en(g)` (R311). -/
def State.dcrEn (s : State) : Group → Bool
  | .g0 => s.dcrEn0
  | .g1 => s.dcrEn1

/-- `cpu_en(c, g)` (R47). -/
def State.cpuEn (s : State) (c : CpuId) : Group → Bool
  | .g0 => (s.ifOf c).icr.enableS
  | .g1 => (s.ifOf c).icr.enableNS

/-- `top(c)` (R50). -/
def State.top (s : State) (c : CpuId) : Option Entry := (s.ifOf c).stk.head?

/-- The target mask CPU `c` reads for ID `n` (R203): its own bit for a private ID. -/
def State.targetView (s : State) (c : CpuId) (n : Nat) : Byte := if n < 32 then cpuBit c else (s.spiOf n).tgt

/-- Latching a pending state of an SPI (R178, R300): the one latch under 1:N, the latch of every CPU in the target
mask under N:N. -/
def SpiLine.latched (l : SpiLine) (p : Params) : SpiLine :=
  if l.cfg.getLsbD 0 then { l with latch1 := true }
  else { l with latchN := tabUpdate (fun i b => b || (decide (i < p.ncpu) && l.tgt.getLsbD i)) l.latchN }

/-- Clearing the latched pending state of an SPI (R180). -/
def SpiLine.unlatched (l : SpiLine) (p : Params) : SpiLine :=
  { l with latch1 := false, latchN := tabUpdate (fun i b => if i < p.ncpu then false else b) l.latchN }

/-- `spi_busy(n)` (R206). -/
def State.spiBusy (s : State) (n : Nat) : Bool :=
  let l := s.spiOf n
  l.latch1 || l.act1.isSome || s.par.cpus.any (fun c => l.latchN[c] || l.actN[c])

/-- `return v`: the value is delivered to the issuing CPU (R11). -/
def State.ret (s : State) (v : Word) : State := { s with rdata := some v }

/-- The start of an access by CPU `c`: it is the issuer, nothing is returned yet, and the step has a number of its
own, under which it draws. -/
def State.begin (s : State) (c : CpuId) : State := { s with cpu := c, rdata := none, draws := s.draws + 1 }

/-- A faulting access records the first fault and changes nothing else (R330). -/
def State.recordFault (s : State) (f : Fault) : State := { s with fault := some (s.fault.getD f) }

/-- A refused access is recorded and changes nothing else (R331). -/
def State.recordRefusal (s : State) : State := { s with refused := true }

/-- How a halted model answers: it takes no further step (R330, R331). `none` when it is not halted. -/
def State.halted (s : State) : Option (Host.Outcome State Fault Refusal) :=
  match s.fault with
  | some f => some (.fault f)
  | none => if s.refused then some (.refused .nonsecureAccess) else none

/-- What an access leaves, from what its instruction answers: a fault is recorded (R330). -/
def State.settle (before : State) (o : Host.Outcome State Fault Refusal) : Host.Outcome State Fault Refusal :=
  match o with
  | .next t => .next t
  | .fault f => .next (before.recordFault f)
  | .refused r => .refused r

end Sys2Proof.Machine
end

