-- ==== Sys2Proof/Machine/Bus.lean ====
section
/-! DEFINITION. How a CPU's memory access reaches the block: the two windows, and what becomes of an access before its
register's rule runs (spec/20 R80 to R84, spec/30 R109, spec/60 R321, R331). -/

namespace Sys2Proof.Machine

/-- The window and offset of a physical address, if it lies in a window (R80). -/
def windowOf (p : Params) (addr : Nat) : Option (Win × BitVec 12) :=
  if p.distBase ≤ addr ∧ addr < p.distBase + 0x1000 then some (.dist, BitVec.ofNat 12 (addr - p.distBase))
  else if p.cpuifBase ≤ addr ∧ addr < p.cpuifBase + 0x100 then some (.cpuif, BitVec.ofNat 12 (addr - p.cpuifBase))
  else none

/-- The address of a window's first byte. -/
def windowBase (p : Params) : Win → Nat
  | .dist => p.distBase
  | .cpuif => p.cpuifBase

/-- The model fault a decode error raises (R109, R330). A register access never has the errors of a byte record. -/
def faultOf : DecodeError → Fault
  | .badWidthOrAlignment => .badWidthOrAlignment
  | .writeToReadOnly => .writeToReadOnly
  | .readOfWriteOnly => .readOfWriteOnly
  | .unmappedOffset | .recordLength | .keyTooWide => .unmappedOffset

/-- What becomes of an access. -/
inductive Admission where
  /-- Its address lies in neither window: it does not reach the block (R81). -/
  | elsewhere
  /-- No CPU of that index exists (log 13). -/
  | noSuchCpu
  /-- It is not Secure: RF1, before any decode (R321, R331). -/
  | nonsecure
  /-- Its decode faults (R109). -/
  | faulty (f : Fault)
  /-- It performs the rule of a register access. -/
  | admitted (i : Instr)
deriving DecidableEq, Repr

/-- The admission of an access: refusal, then decode (R321). -/
def admissionOf (p : Params) (r : Request) : Admission :=
  if p.ncpu ≤ r.cpu.val then .noSuchCpu
  else
    match windowOf p r.addr with
    | none => .elsewhere
    | some (win, off) =>
      if r.secure then
        match decodeAccess r.dir win off r.width r.data with
        | .ok i => .admitted i
        | .error e => .faulty (faultOf e)
      else .nonsecure

/-- The machine form of an access (R112): 32 bits wide, Secure, at its register's address. -/
def requestOf (i : Instr) (p : Params) (c : CpuId) : Request :=
  { cpu := c, secure := true, dir := i.dir, width := 32, addr := windowBase p i.win + i.off, data := i.data }

end Sys2Proof.Machine
end

