-- ==== Sys2Proof/Machine/Flags.lean ====
section
/-! DEFINITION. The block has no flags (spec/10 R32). The status it names instead is computed here: pending and active as
registers show them (spec/42 R182, R183) and as the arbiter sees them (spec/60 R302), and the group masks (spec/45 R236). -/

namespace Sys2Proof.Machine

/-- `pend_view(c, n)` (R182). -/
def State.pendView (s : State) (c : CpuId) (n : Nat) : Bool :=
  if n < 16 then s.par.cpus.any (fun src => (s.sgiOf c n).pend[src])
  else if n < 32 then (s.ppiOf c n).latch || (s.isLevel c n && (s.ppiOf c n).level)
  else if s.oneN c n then (s.spiOf n).latch1 || (s.isLevel c n && (s.spiOf n).level)
  else s.par.cpus.any (fun c2 => (s.spiOf n).latchN[c2]) || (s.isLevel c n && (s.spiOf n).level)

/-- `act_view(c, n)` (R183). -/
def State.actView (s : State) (c : CpuId) (n : Nat) : Bool :=
  if n < 16 then (s.sgiOf c n).act.isSome
  else if n < 32 then (s.ppiOf c n).act
  else if s.oneN c n then (s.spiOf n).act1.isSome
  else s.par.cpus.any (fun c2 => (s.spiOf n).actN[c2])

/-- `epend(c, n, s)` (R302): source `src` of an SGI, 0 for every other ID. -/
def State.epend (s : State) (c : CpuId) (n : Nat) (src : CpuId) : Bool :=
  if n < 16 then (s.sgiOf c n).pend[src]
  else if n < 32 then src == 0 && ((s.ppiOf c n).latch || (s.isLevel c n && (s.ppiOf c n).level))
  else if s.oneN c n then src == 0 && ((s.spiOf n).latch1 || (s.isLevel c n && (s.spiOf n).level))
  else src == 0 && ((s.spiOf n).latchN[c] || (s.isLevel c n && (s.spiOf n).level))

/-- `eact(c, n)` (R302): under 1:N, active on any CPU. -/
def State.eact (s : State) (c : CpuId) (n : Nat) : Bool :=
  if n < 16 then (s.sgiOf c n).act.isSome
  else if n < 32 then (s.ppiOf c n).act
  else if s.oneN c n then (s.spiOf n).act1.isSome
  else (s.spiOf n).actN[c]

/-- The four states of an interrupt on a CPU (R302). -/
inductive LineStatus where
  | inactive
  | pending
  | active
  | activePending
deriving DecidableEq, Repr

/-- The state of instance `(n, src)` on CPU `c` (R302). -/
def State.status (s : State) (c : CpuId) (n : Nat) (src : CpuId) : LineStatus :=
  match s.epend c n src, s.eact c n with
  | false, false => .inactive
  | true, false => .pending
  | false, true => .active
  | true, true => .activePending

/-- `gmask(c, g)` (R236). -/
def State.gmask (s : State) (c : CpuId) (g : Group) : Byte :=
  if g = .g0 ∨ (s.ifOf c).icr.sbpr then 0xFF#8 <<< ((s.ifOf c).bpr.toNat + 1)
  else 0xFF#8 <<< (s.ifOf c).abpr.toNat

/-- `gp(c, g, p)` (R236). -/
def State.gp (s : State) (c : CpuId) (g : Group) (p : Byte) : Byte := p &&& s.gmask c g

end Sys2Proof.Machine
end

