-- ==== Sys2Proof/Machine/Arbiter.lean ====
section
/-! DEFINITION. The CPU-affinity multiplexer, the priority encoder and arbiter, the request outputs, and the claim and
release transitions (spec/60 R307 to R318). -/

namespace Sys2Proof.Machine

/-- `route(c, n)` (R310). -/
def State.route (s : State) (c : CpuId) (n : Nat) : Bool := if n < 32 then true else (s.spiOf n).tgt.getLsbD c.val

/-- Whether instance `(n, src)` is a candidate of CPU `c` (R311). -/
def State.isCand (s : State) (c : CpuId) (n : Nat) (src : CpuId) : Bool :=
  s.epend c n src && !s.eact c n && s.en c n && s.dcrEn (s.grp c n) && s.route c n && s.cpuEn c (s.grp c n)

/-- The sources an ID can have: every CPU for an SGI, 0 for every other (R302). -/
def State.sourcesOf (s : State) (n : Nat) : List CpuId := if n < 16 then s.par.cpus else [0]

/-- `cand(c)` (R311). -/
def State.cand (s : State) (c : CpuId) : List Entry :=
  (List.range s.par.maxl).flatMap fun n =>
    ((s.sourcesOf n).filter fun src => s.isCand c n src).map fun src => { id := n, src := src, prio := s.prio c n }

/-- The least priority value among some instances. -/
def minPrio : List Entry → Option Byte
  | [] => none
  | e :: es =>
    match minPrio es with
    | none => some e.prio
    | some p => some (if e.prio < p then e.prio else p)

/-- The instances of the least priority value (R314). -/
def leastOf (es : List Entry) : List Entry := es.filter fun e => minPrio es == some e.prio

/-- `hppi(c)` (R314): the instance that the draw `tie` picks among the candidates of the least priority value. Every
one of them is picked by some draw. -/
def State.hppi (s : State) (c : CpuId) (tie : Nat) : Option Entry :=
  (leastOf (s.cand c))[tie % (leastOf (s.cand c)).length]?

/-- `preempt_ok(c, e)` (R317). -/
def State.preemptOk (s : State) (c : CpuId) (e : Entry) : Bool :=
  match s.top c with
  | none => true
  | some t => decide (s.gp c (s.grp c e.id) e.prio < s.gp c (s.grp c e.id) t.prio)

/-- `signal_ok(c, e)` (R316). -/
def State.signalOk (s : State) (c : CpuId) (e : Entry) : Bool := decide (e.prio < (s.ifOf c).pmr) && s.preemptOk c e

/-- `req(c, g)` (R318). -/
def State.req (s : State) (c : CpuId) (g : Group) : Bool :=
  (leastOf (s.cand c)).any fun e => s.grp c e.id == g && s.signalOk c e

/-- `fiq(c)` (R318). -/
def State.fiq (s : State) (c : CpuId) : Bool := (s.ifOf c).icr.fiqEn && s.req c .g0

/-- `irq(c)` (R318). -/
def State.irq (s : State) (c : CpuId) : Bool := s.req c .g1 || (!(s.ifOf c).icr.fiqEn && s.req c .g0)

/-- An SGI claimed from source `src` (R307). -/
def SgiLine.claimed (l : SgiLine) (src : CpuId) : SgiLine :=
  { l with pend := tabSet l.pend src.val false, act := some src }

/-- A PPI claimed (R307). -/
def PpiLine.claimed (l : PpiLine) : PpiLine := { l with latch := false, act := true }

/-- An SPI claimed by CPU `c` (R307). -/
def SpiLine.claimed (l : SpiLine) (c : CpuId) : SpiLine :=
  if l.cfg.getLsbD 0 then { l with latch1 := false, act1 := some c }
  else { l with latchN := tabSet l.latchN c.val false, actN := tabSet l.actN c.val true }

/-- The line part of `claim(c, e)` (R307). -/
def State.claimLine (s : State) (c : CpuId) (e : Entry) : State :=
  if e.id < 16 then s.updSgi c (fun n l => if n = e.id then l.claimed e.src else l)
  else if e.id < 32 then s.updPpi c (fun n l => if n = e.id then l.claimed else l)
  else s.updSpi (fun n l => if n = e.id then l.claimed c else l)

/-- `claim(c, e)` (R307): the line becomes active and the entry is pushed. -/
def State.claim (s : State) (c : CpuId) (e : Entry) : State :=
  (s.claimLine c e).updIf c (fun i => { i with stk := e :: i.stk })

/-- An SPI released by CPU `c` (R308). -/
def SpiLine.released (l : SpiLine) (c : CpuId) : SpiLine :=
  { l with act1 := if l.act1 = some c then none else l.act1, actN := tabSet l.actN c.val false }

/-- The line part of `release(c)` for the entry `e` that is popped (R308). -/
def State.releaseLine (s : State) (c : CpuId) (e : Entry) : State :=
  if e.id < 16 then s.updSgi c (fun n l => if n = e.id then { l with act := none } else l)
  else if e.id < 32 then s.updPpi c (fun n l => if n = e.id then { l with act := false } else l)
  else s.updSpi (fun n l => if n = e.id then l.released c else l)

/-- `release(c)` (R308) of the top entry `e`: it is popped and its line is no longer active. -/
def State.release (s : State) (c : CpuId) (e : Entry) : State :=
  (s.releaseLine c e).updIf c (fun i => { i with stk := i.stk.tail })

end Sys2Proof.Machine
end

