-- ==== Sys2Proof/Machine/DistGlobal.lean ====
section
/-! DEFINITION. The single registers of the Distributor: control, type and identification (spec/41). -/

namespace Sys2Proof.Machine

abbrev Outcome := Host.Outcome State Fault Refusal

/-- The value of ICDDCR (R150). -/
def State.dcrWord (s : State) : Word :=
  (if s.dcrEn0 then 1 else 0) ||| (if s.dcrEn1 then 2 else 0)

/-- The value of ICDICTR (R152). -/
def typeWord (p : Params) : Word :=
  BitVec.ofNat 32 p.itl.val ||| (BitVec.ofNat 32 (p.ncpu - 1) <<< 5) ||| (1#32 <<< 10) ||| (BitVec.ofNat 32 p.lspi.val <<< 11)

/-- The value of an identification register (R154 to R156). -/
def idWord {k : Nat} (ids : Vector Byte k) (i : Nat) : Word := (tabGet ids 0 i).setWidth 32

/-- RD ICDDCR (R150). -/
def execRdIcddcr (s : State) : Outcome := .next (s.ret s.dcrWord)

/-- WR ICDDCR (R151). -/
def execWrIcddcr (v : Word) (s : State) : Outcome :=
  .next { s with dcrEn0 := v.getLsbD 0, dcrEn1 := v.getLsbD 1 }

/-- RD ICDICTR (R152). -/
def execRdIcdictr (s : State) : Outcome := .next (s.ret (typeWord s.par))

/-- RD ICDIIDR (R153). -/
def execRdIcdiidr (s : State) : Outcome := .next (s.ret s.par.distIidr)

/-- RD PIDR4_7[k] (R154). -/
def execRdPidr47 (k : Nat) (s : State) : Outcome := .next (s.ret (idWord s.par.pidr (4 + k)))

/-- RD PIDR0_3[k] (R155). -/
def execRdPidr03 (k : Nat) (s : State) : Outcome := .next (s.ret (idWord s.par.pidr k))

/-- RD CIDR[k] (R156). -/
def execRdCidr (k : Nat) (s : State) : Outcome := .next (s.ret (idWord s.par.cidr k))

end Sys2Proof.Machine
end

