-- ==== Sys2Proof/Machine/CpuInterface.lean ====
section
/-! DEFINITION. The registers of the CPU interface of the issuing CPU `s.cpu` (spec/45). -/

namespace Sys2Proof.Machine

/-- The value of ICCICR (R231). -/
def Icr.word (i : Icr) : Word :=
  (if i.enableS then 1 else 0) ||| (if i.enableNS then 2 else 0) ||| (if i.ackCtl then 4 else 0) |||
  (if i.fiqEn then 8 else 0) ||| (if i.sbpr then 16 else 0)

/-- What a write of ICCICR stores (R232). -/
def Icr.ofWord (v : Word) : Icr :=
  { enableS := v.getLsbD 0, enableNS := v.getLsbD 1, ackCtl := v.getLsbD 2, fiqEn := v.getLsbD 3, sbpr := v.getLsbD 4 }

/-- RD ICCICR (R231). -/
def execRdIccicr (s : State) : Outcome := .next (s.ret (s.ifOf s.cpu).icr.word)

/-- WR ICCICR (R232). -/
def execWrIccicr (v : Word) (s : State) : Outcome := .next (s.updIf s.cpu (fun i => { i with icr := Icr.ofWord v }))

/-- RD ICCPMR (R234). -/
def execRdIccpmr (s : State) : Outcome := .next (s.ret ((s.ifOf s.cpu).pmr.setWidth 32))

/-- WR ICCPMR (R235). -/
def execWrIccpmr (v : Word) (s : State) : Outcome := .next (s.updIf s.cpu (fun i => { i with pmr := storedPrio v }))

/-- RD ICCBPR (R237). -/
def execRdIccbpr (s : State) : Outcome := .next (s.ret ((s.ifOf s.cpu).bpr.setWidth 32))

/-- The binary point a written word carries: bits 2..0; the reserved bits above are ignored (R108, R238, R245). -/
def binaryPointField (v : Word) : BitVec 3 := v.setWidth 3

/-- What a binary point register stores when its field is written with `b`: a value below the minimum may be raised to
it, as the draw `raise` says (R238, R245). -/
def storedBinaryPoint (least : BitVec 3) (raise : Bool) (b : BitVec 3) : BitVec 3 := if b < least ∧ raise then least else b

/-- The draw of a write of field `b` to a binary point register that holds `stored` and was last written with `last`: a
write of the same field as the last one repeats its draw, so that it changes nothing (R86; log 23). -/
def standingDraw (least stored : BitVec 3) (last : Option (BitVec 3)) (raise : Bool) (b : BitVec 3) : Bool :=
  if last = some b then decide (stored = least) else raise

/-- The field `b` is written to ICCBPR under a draw (R238). -/
def CpuIf.writeBpr (i : CpuIf) (raise : Bool) (b : BitVec 3) : CpuIf :=
  { i with bpr := storedBinaryPoint bprMin (standingDraw bprMin i.bpr i.bprWritten raise b) b, bprWritten := some b }

/-- The field `b` is written to ICCABPR under a draw (R245). -/
def CpuIf.writeAbpr (i : CpuIf) (raise : Bool) (b : BitVec 3) : CpuIf :=
  { i with abpr := storedBinaryPoint abprMin (standingDraw abprMin i.abpr i.abprWritten raise b) b, abprWritten := some b }

/-- WR ICCBPR under a draw (R238). -/
def State.writeBpr (s : State) (raise : Bool) (v : Word) : State := s.updIf s.cpu (fun i => i.writeBpr raise (binaryPointField v))

/-- WR ICCBPR (R238); the draw is free (log 8). -/
def execWrIccbpr (v : Word) (s : State) : Outcome := .next (s.writeBpr (Config.drawBprMin s.draws) v)

/-- RD ICCABPR (R244). -/
def execRdIccabpr (s : State) : Outcome := .next (s.ret ((s.ifOf s.cpu).abpr.setWidth 32))

/-- WR ICCABPR under a draw (R245). -/
def State.writeAbpr (s : State) (raise : Bool) (v : Word) : State :=
  s.updIf s.cpu (fun i => i.writeAbpr raise (binaryPointField v))

/-- WR ICCABPR (R245); the draw is free (log 8). -/
def execWrIccabpr (v : Word) (s : State) : Outcome := .next (s.writeAbpr (Config.drawAbprMin s.draws) v)

/-- The acknowledge under its two draws (R240). -/
def State.acknowledge (s : State) (late : Bool) (tie : Nat) : State :=
  if late then s.ret spuriousId
  else
    match s.hppi s.cpu tie with
    | none => s.ret spuriousId
    | some e =>
      if s.signalOk s.cpu e = false then s.ret spuriousId
      else if s.grp s.cpu e.id = .g1 ∧ (s.ifOf s.cpu).icr.ackCtl = false then s.ret groupOneId
      else (s.claim s.cpu e).ret (claimWord e.id e.src)

/-- RD ICCIAR (R240); both draws are free (logs 6, 7), within R241. -/
def execRdIcciar (s : State) : Outcome := .next (s.acknowledge s.late (Config.drawTie s.draws))

/-- WR ICCEOIR (R242): empty stack, then ID, then source (R321). -/
def execWrIcceoir (v : Word) (s : State) : Outcome :=
  match s.top s.cpu with
  | none => .fault .eoiMismatch
  | some e =>
    if claimId v ≠ e.id then .fault .eoiMismatch
    else if e.id < 16 ∧ claimSrc v ≠ e.src.val then .fault .eoiMismatch
    else if 16 ≤ e.id ∧ claimSrc v ≠ 0 then .fault .eoiMismatch
    else .next (s.release s.cpu e)

/-- The running priority of CPU `c`: 0xFF when idle (R243). -/
def State.runningPrio (s : State) (c : CpuId) : Byte :=
  match s.top c with
  | none => 0xFF
  | some e => e.prio

/-- RD ICCRPR (R243). -/
def execRdIccrpr (s : State) : Outcome := .next (s.ret ((s.runningPrio s.cpu).setWidth 32))

/-- The value of ICCHPIR under its two draws (R246): no mask, no preemption test. -/
def State.highestPending (s : State) (late : Bool) (tie : Nat) : Word :=
  if late then spuriousId
  else
    match s.hppi s.cpu tie with
    | none => spuriousId
    | some e =>
      if s.grp s.cpu e.id = .g1 ∧ (s.ifOf s.cpu).icr.ackCtl = false then groupOneId
      else claimWord e.id e.src

/-- RD ICCHPIR (R246); both draws are free (logs 6, 7), within R241. -/
def execRdIcchpir (s : State) : Outcome := .next (s.ret (s.highestPending s.late (Config.drawTie s.draws)))

/-- RD ICCIIDR (R247). -/
def execRdIcciidr (s : State) : Outcome := .next (s.ret s.par.cpuifIidr)

end Sys2Proof.Machine
end

