-- ==== Sys2Proof/Machine/LineBits.lean ====
section
/-! DEFINITION. The density-32 arrays of the Distributor: security, enable, pending and active bits (spec/42). The issuing
CPU is `s.cpu`. -/

namespace Sys2Proof.Machine

/-- A read of word `k` of a density-32 array whose bit of ID `n` is `f n` (R170). -/
def State.readBits (s : State) (k : Nat) (f : Nat → Bool) : Outcome := .next (s.ret (bitword s.par.maxl k f))

/-- RD ICDISR[k] (R171). -/
def execRdIcdisr (k : Nat) (s : State) : Outcome := s.readBits k (s.sec s.cpu)

/-- WR ICDISR[k] (R172): every bit of the word is written. -/
def execWrIcdisr (k : Nat) (v : Word) (s : State) : Outcome :=
  .next (((s.updSgi s.cpu (fun n l => if holdsLine .d32 k n then { l with sec := writtenBit v n } else l)).updPpi s.cpu
    (fun n l => if holdsLine .d32 k n then { l with sec := writtenBit v n } else l)).updSpi
    (fun n l => if holdsLine .d32 k n then { l with sec := writtenBit v n } else l))

/-- RD ICDISER[k] (R173). -/
def execRdIcdiser (k : Nat) (s : State) : Outcome := s.readBits k (s.en s.cpu)

/-- The enable bits of the IDs word `k`, written with `v`, names become `b` (R174, R176); those of SGIs are stuck. -/
def State.writeEnables (s : State) (k : Nat) (v : Word) (b : Bool) : State :=
  (s.updPpi s.cpu (fun n l => if writesOne v k n then { l with en := b } else l)).updSpi
    (fun n l => if writesOne v k n then { l with en := b } else l)

/-- WR ICDISER[k] (R174): write 1 to enable. -/
def execWrIcdiser (k : Nat) (v : Word) (s : State) : Outcome := .next (s.writeEnables k v true)

/-- RD ICDICER[k] (R175). -/
def execRdIcdicer (k : Nat) (s : State) : Outcome := s.readBits k (s.en s.cpu)

/-- WR ICDICER[k] (R176): write 1 to disable. -/
def execWrIcdicer (k : Nat) (v : Word) (s : State) : Outcome := .next (s.writeEnables k v false)

/-- RD ICDISPR[k] (R177). -/
def execRdIcdispr (k : Nat) (s : State) : Outcome := s.readBits k (s.pendView s.cpu)

/-- WR ICDISPR[k] (R178): write 1 to latch a pending state; SGI bits are ignored. -/
def execWrIcdispr (k : Nat) (v : Word) (s : State) : Outcome :=
  .next ((s.updPpi s.cpu (fun n l => if writesOne v k n then { l with latch := true } else l)).updSpi
    (fun n l => if writesOne v k n then l.latched s.par else l))

/-- RD ICDICPR[k] (R179). -/
def execRdIcdicpr (k : Nat) (s : State) : Outcome := s.readBits k (s.pendView s.cpu)

/-- WR ICDICPR[k] (R180): write 1 to clear the latched pending state; SGI bits are ignored. -/
def execWrIcdicpr (k : Nat) (v : Word) (s : State) : Outcome :=
  .next ((s.updPpi s.cpu (fun n l => if writesOne v k n then { l with latch := false } else l)).updSpi
    (fun n l => if writesOne v k n then l.unlatched s.par else l))

/-- RD ICDABR[k] (R181). -/
def execRdIcdabr (k : Nat) (s : State) : Outcome := s.readBits k (s.actView s.cpu)

end Sys2Proof.Machine
end

