-- ==== Sys2Proof/Machine/LineFields.lean ====
section
/-! DEFINITION. The packed arrays of the Distributor: priority, CPU targets and trigger configuration (spec/43). The issuing
CPU is `s.cpu`. -/

namespace Sys2Proof.Machine

/-- A read of word `k` of a packed array whose field of ID `n` is `f n` (R200). -/
def State.readFields (s : State) (k : Nat) (d : Density) (f : Nat → Word) : Outcome :=
  .next (s.ret (fieldword s.par.maxl k d f))

/-- RD ICDIPR[k] (R201). -/
def execRdIcdipr (k : Nat) (s : State) : Outcome := s.readFields k .d4 (fun n => (s.prio s.cpu n).setWidth 32)

/-- WR ICDIPR[k] (R202): the four priorities, truncated to the implemented bits. -/
def execWrIcdipr (k : Nat) (v : Word) (s : State) : Outcome :=
  .next (((s.updSgi s.cpu
      (fun n l => if holdsLine .d4 k n then { l with prio := storedPrio (fieldGet v n .d4) } else l)).updPpi s.cpu
      (fun n l => if holdsLine .d4 k n then { l with prio := storedPrio (fieldGet v n .d4) } else l)).updSpi
      (fun n l => if holdsLine .d4 k n then { l with prio := storedPrio (fieldGet v n .d4) } else l))

/-- RD ICDIPTR[k] (R203). -/
def execRdIcdiptr (k : Nat) (s : State) : Outcome := s.readFields k .d4 (fun n => (s.targetView s.cpu n).setWidth 32)

/-- WR ICDIPTR[k] (R204): the fields of SGIs and PPIs are read-only. -/
def execWrIcdiptr (k : Nat) (v : Word) (s : State) : Outcome :=
  .next (s.updSpi (fun n l => if holdsLine .d4 k n then { l with tgt := storedTargets s.par (fieldGet v n .d4) } else l))

/-- RD ICDICFR[k] (R205). -/
def execRdIcdicfr (k : Nat) (s : State) : Outcome := s.readFields k .d16 (fun n => (s.cfgOf s.cpu n).setWidth 32)

/-- Whether the written word changes the configuration of an enabled ID: F7 (R206). -/
def State.changesEnabled (s : State) (k : Nat) (v : Word) : Bool :=
  (cfgIds s.par.maxl k).any fun n => writtenCfg v n != s.cfgOf s.cpu n && s.en s.cpu n

/-- Whether the written word changes the model bit of an SPI that holds a latched pending or an active state: F8
(R206). -/
def State.changesBusyModel (s : State) (k : Nat) (v : Word) : Bool :=
  (cfgIds s.par.maxl k).any fun n =>
    decide (32 ≤ n) && (writtenCfg v n).getLsbD 0 != s.oneN s.cpu n && s.spiBusy n

/-- The configuration fields of word `k` are written with `v`; those of SGIs are ignored (R206). -/
def State.writeCfg (s : State) (k : Nat) (v : Word) : State :=
  (s.updPpi s.cpu (fun n l => if holdsLine .d16 k n then { l with cfg := writtenCfg v n } else l)).updSpi
    (fun n l => if holdsLine .d16 k n then { l with cfg := writtenCfg v n } else l)

/-- WR ICDICFR[k] (R206): every field is checked for F7, then every field for F8 (R321, log 10); then every field is
written. -/
def execWrIcdicfr (k : Nat) (v : Word) (s : State) : Outcome :=
  if s.changesEnabled k v then .fault .configChangeWhileEnabled
  else if s.changesBusyModel k v then .fault .modelChangeWithState
  else .next (s.writeCfg k v)

end Sys2Proof.Machine
end

