-- ==== Sys2Proof/Machine/Sgi.lean ====
section
/-! DEFINITION. The software-generated-interrupt register and its router (spec/44). -/

namespace Sys2Proof.Machine

/-- The target set of a send (R220); `none` for the reserved filter. -/
def sgiTargets (p : Params) (c : CpuId) (v : Word) : Option Byte :=
  if sgiFilter v = 0b00 then some (sgiList v &&& p.allCpu)
  else if sgiFilter v = 0b01 then some (p.allCpu &&& ~~~ cpuBit c)
  else if sgiFilter v = 0b10 then some (cpuBit c)
  else none

/-- Whether a send of `v` with target set `targets` makes SGI `n` pending at CPU `t` (R220, R221): its group there is
`l`'s security bit. -/
def sgiReaches (p : Params) (v : Word) (targets : Byte) (t : CpuId) (n : Nat) (l : SgiLine) : Bool :=
  n == sgiId v && decide (t.val < p.ncpu) && targets.getLsbD t.val && l.sec == sgiNsatt v

/-- The SGI becomes pending, from this CPU, at every CPU it reaches (R220). -/
def State.sendSgi (s : State) (v : Word) (targets : Byte) : State :=
  s.updSgis (fun t n l =>
    if sgiReaches s.par v targets t n l then { l with pend := tabSet l.pend s.cpu.val true } else l)

/-- WR ICDSGIR (R220). -/
def execWrIcdsgir (v : Word) (s : State) : Outcome :=
  match sgiTargets s.par s.cpu v with
  | none => .fault .sgiFilterReserved
  | some targets => .next (s.sendSgi v targets)

end Sys2Proof.Machine
end

