-- ==== Sys2Proof/Machine/Dispatch.lean ====
section
/-! DEFINITION. One arm per constructor of `Instr`, each one direct call of its meaning. -/

namespace Sys2Proof.Machine

def exec (i : Instr) (s : State) : Host.Outcome State Fault Refusal :=
  match i with
  | .rdIcddcr => Sys2Proof.Machine.execRdIcddcr s
  | .wrIcddcr v => Sys2Proof.Machine.execWrIcddcr v s
  | .rdIcdictr => Sys2Proof.Machine.execRdIcdictr s
  | .rdIcdiidr => Sys2Proof.Machine.execRdIcdiidr s
  | .rdIcdisr k => Sys2Proof.Machine.execRdIcdisr k s
  | .wrIcdisr k v => Sys2Proof.Machine.execWrIcdisr k v s
  | .rdIcdiser k => Sys2Proof.Machine.execRdIcdiser k s
  | .wrIcdiser k v => Sys2Proof.Machine.execWrIcdiser k v s
  | .rdIcdicer k => Sys2Proof.Machine.execRdIcdicer k s
  | .wrIcdicer k v => Sys2Proof.Machine.execWrIcdicer k v s
  | .rdIcdispr k => Sys2Proof.Machine.execRdIcdispr k s
  | .wrIcdispr k v => Sys2Proof.Machine.execWrIcdispr k v s
  | .rdIcdicpr k => Sys2Proof.Machine.execRdIcdicpr k s
  | .wrIcdicpr k v => Sys2Proof.Machine.execWrIcdicpr k v s
  | .rdIcdabr k => Sys2Proof.Machine.execRdIcdabr k s
  | .rdIcdipr k => Sys2Proof.Machine.execRdIcdipr k s
  | .wrIcdipr k v => Sys2Proof.Machine.execWrIcdipr k v s
  | .rdIcdiptr k => Sys2Proof.Machine.execRdIcdiptr k s
  | .wrIcdiptr k v => Sys2Proof.Machine.execWrIcdiptr k v s
  | .rdIcdicfr k => Sys2Proof.Machine.execRdIcdicfr k s
  | .wrIcdicfr k v => Sys2Proof.Machine.execWrIcdicfr k v s
  | .wrIcdsgir v => Sys2Proof.Machine.execWrIcdsgir v s
  | .rdPidr47 k => Sys2Proof.Machine.execRdPidr47 k s
  | .rdPidr03 k => Sys2Proof.Machine.execRdPidr03 k s
  | .rdCidr k => Sys2Proof.Machine.execRdCidr k s
  | .rdIccicr => Sys2Proof.Machine.execRdIccicr s
  | .wrIccicr v => Sys2Proof.Machine.execWrIccicr v s
  | .rdIccpmr => Sys2Proof.Machine.execRdIccpmr s
  | .wrIccpmr v => Sys2Proof.Machine.execWrIccpmr v s
  | .rdIccbpr => Sys2Proof.Machine.execRdIccbpr s
  | .wrIccbpr v => Sys2Proof.Machine.execWrIccbpr v s
  | .rdIcciar => Sys2Proof.Machine.execRdIcciar s
  | .wrIcceoir v => Sys2Proof.Machine.execWrIcceoir v s
  | .rdIccrpr => Sys2Proof.Machine.execRdIccrpr s
  | .rdIcchpir => Sys2Proof.Machine.execRdIcchpir s
  | .rdIccabpr => Sys2Proof.Machine.execRdIccabpr s
  | .wrIccabpr v => Sys2Proof.Machine.execWrIccabpr v s
  | .rdIcciidr => Sys2Proof.Machine.execRdIcciidr s

end Sys2Proof.Machine
end

