-- ==== Sys2Proof/Machine/Events.lean ====
section
/-! DEFINITION. The events that are no access: a change of one input level (spec/60 R300) and reset (spec/70 R350). -/

namespace Sys2Proof.Machine

/-- `SetLevelPPI(c, n, b)` (R300): a rising edge of an edge-triggered PPI latches. -/
def State.setLevelPpi (s : State) (c : CpuId) (n : Nat) (b : Bool) : State :=
  s.updPpi c (fun m l =>
    if m = n then { l with level := b, latch := l.latch || (b && !l.level && l.cfg.getLsbD 1) } else l)

/-- `SetLevelSPI(n, b)` (R300): a rising edge of an edge-triggered SPI latches. -/
def State.setLevelSpi (s : State) (n : Nat) (b : Bool) : State :=
  s.updSpi (fun m l =>
    if m = n then
      (if b && !l.level && l.cfg.getLsbD 1 then { l with level := b }.latched s.par else { l with level := b })
    else l)

/-- Whether the block has the PPI input `(c, n)` (R300). -/
def State.hasPpi (s : State) (c : CpuId) (n : Nat) : Bool := decide (16 ≤ n ∧ n < 32 ∧ c.val < s.par.ncpu)

/-- Whether the block has the SPI input `n` (R300). -/
def State.hasSpi (s : State) (n : Nat) : Bool := decide (32 ≤ n ∧ n < s.par.maxl)

/-- The levels the inputs have: a reset keeps them (R350). -/
def State.levels (s : State) : Levels :=
  { ppi := tabOf 8 fun c => tabOf 16 fun i => (tabGet (tabGet s.bank s.bank[0] c).ppi (PpiLine.idle 0 false) i).level
    spi := tabOf 224 fun i => (tabGet s.spi (SpiLine.idle 0 false) i).level }

/-- What the reset event of step `k` draws for the fields R53 leaves unspecified (log 9). -/
def resetDrawAt (k : Nat) : ResetDraw :=
  { cfgPpi := tabOf 8 fun c => tabOf 16 fun i => Config.drawCfgPpi k c (16 + i)
    cfgSpi := tabOf 224 fun i => Config.drawCfgSpi k (32 + i)
    bpr := tabOf 8 fun c => Config.drawBpr k c
    abpr := tabOf 8 fun c => Config.drawAbpr k c }

/-- The reset event under a draw (R350): the whole block at once, the records of faults and refusals cleared, the input
levels kept. The accesses still to come and the runs of late answers are not the block's, and stay (log 9). -/
def State.resetUnder (s : State) (d : ResetDraw) : State :=
  { State.afterReset s.par s.levels d with
    draws := s.draws + 1, ackRun := s.ackRun, peekRun := s.peekRun, inbox := s.inbox }

/-- The reset event (R350). -/
def State.resetEvent (s : State) : State := s.resetUnder (resetDrawAt s.draws)

end Sys2Proof.Machine
end

