-- ==== Sys2Proof/Machine/Forwarding.lean ====
section
/-! DEFINITION. The forwarding delay: the `late` draw of the acknowledge and of the highest-pending read, under the
fairness the spec asks of it (spec/45 R240, R241, R246, spec/70 R366; log 6). -/

namespace Sys2Proof.Machine

/-- An acknowledge by `c` would claim an interrupt: `hppi(c)` exists and passes `signal_ok` (R241). -/
def State.claimable (s : State) (c : CpuId) (tie : Nat) : Bool := (s.hppi c tie).any (s.signalOk c)

/-- A highest-pending read by `c` would name an interrupt: `hppi(c)` exists (R241, R246). -/
def State.offered (s : State) (c : CpuId) (tie : Nat) : Bool := (s.hppi c tie).isSome

/-- The step that began a run of late answers which goes on at step `now`: `now` itself when there is none yet. -/
def LateRun.start (r : LateRun) (now : Nat) : Nat := if r.count = 0 then now else r.since

/-- Whether a read at step `now` is late: the length of the run was drawn when it began (R241). -/
def LateRun.late (r : LateRun) (now : Nat) : Bool := decide (r.count < Config.drawLateRun (r.start now))

/-- The run after a read at step `now`: a late one lengthens it if the read was `ready`; any other ends it. -/
def LateRun.after (r : LateRun) (ready : Bool) (now : Nat) : LateRun :=
  if ready && r.late now then { since := r.start now, count := r.count + 1 } else LateRun.idle

/-- The `late` draw of access `i` by `s.cpu`, and the run it belongs to; nothing for an access that draws none. -/
def State.forward (s : State) (i : Instr) : State :=
  if i = .rdIcciar then
    { s with
      late := s.ackRun[s.cpu].late s.draws
      ackRun := tabSet s.ackRun s.cpu.val
        (s.ackRun[s.cpu].after (s.claimable s.cpu (Config.drawTie s.draws)) s.draws) }
  else if i = .rdIcchpir then
    { s with
      late := s.peekRun[s.cpu].late s.draws
      peekRun := tabSet s.peekRun s.cpu.val
        (s.peekRun[s.cpu].after (s.offered s.cpu (Config.drawTie s.draws)) s.draws) }
  else s

/-- The start of access `i` by CPU `c`, with its forwarding draw. -/
def State.start (s : State) (c : CpuId) (i : Instr) : State := (s.begin c).forward i

end Sys2Proof.Machine
end

