-- ==== Sys2Proof/Machine/Step.lean ====
section
/-! DEFINITION. One step of the block: the oldest access or event of the inbox (spec/20 R88, spec/60 R320, R330, R331). -/

namespace Sys2Proof.Machine

/-- One access (R100, R109, R321). -/
def performAccess (r : Request) (s : State) : Host.Outcome State Fault Refusal :=
  match admissionOf s.par r with
  | .elsewhere => .next (s.begin r.cpu)
  | .noSuchCpu => .refused .noSuchCpu
  | .nonsecure => .next (s.begin r.cpu).recordRefusal
  | .faulty f => .next ((s.begin r.cpu).recordFault f)
  | .admitted i => (s.start r.cpu i).settle (exec i (s.start r.cpu i))

/-- One access or event of a block that is not halted. -/
def performEvent (e : Event) (s : State) : Host.Outcome State Fault Refusal :=
  match e with
  | .access r => performAccess r s
  | .setLevelPpi c n b => if s.hasPpi c n then .next (s.setLevelPpi c n b) else .refused .noSuchInput
  | .setLevelSpi n b => if s.hasSpi n then .next (s.setLevelSpi n b) else .refused .noSuchInput
  | .reset => .next s.resetEvent

/-- One step: a halted model takes none but a reset (R330, R350, log 9); with nothing to perform the block stays as it
is (R31); otherwise the oldest access or event is performed (R88). -/
def step (s : State) : Host.Outcome State Fault Refusal :=
  match s.inbox with
  | [] => s.halted.getD (.next s)
  | .reset :: rest => performEvent .reset { s with inbox := rest }
  | e :: rest => s.halted.getD (performEvent e { s with inbox := rest })

/-- The state in which the next step performs exactly one access by CPU 0: its key is in bits 15..0 of `w` and its
data in bits 47..16 (log 11). A halted model performs none, so the two halt records are cleared. -/
def State.withFetchWord (s : State) (nbits w : Nat) : State :=
  let x := w % 2 ^ nbits
  { s with
    fault := none
    refused := false
    inbox := .access
      { cpu := 0, secure := true
        dir := if x.testBit 13 then .wr else .rd
        width := 32
        addr := windowBase s.par (if x.testBit 12 then .cpuif else .dist) + x % 2 ^ 12
        data := BitVec.ofNat 32 (x / 2 ^ 16) } :: s.inbox }

end Sys2Proof.Machine
end

