-- ==== Sys2Proof/Machine/Driver.lean ====
section
/-! DEFINITION. The driver operations as pseudo-instructions (spec/46, spec/70 R353): programs of register accesses over the
driver's own software state, which is no state of the block (spec/10 R56). -/

namespace Sys2Proof.Machine

/-- R261. -/
inductive DriverError where
  | invalidConfiguration
  | unsupportedOperation
  | spuriousClaim
  | unmatchedEndOfInterrupt
deriving DecidableEq, Repr

/-- A claim: the raw ICCIAR value with its two fields (R248, R276). -/
structure PendingClaim where
  id : Nat
  src : Nat
  raw : Word
deriving DecidableEq, Repr

/-- The claim a raw ICCIAR value is (R276). -/
def PendingClaim.ofRaw (r : Word) : PendingClaim := { id := claimId r, src := claimSrc r, raw := r }

/-- What the driver logs or reports (R278, R280). -/
inductive LogEntry where
  | noHandler (claim : PendingClaim)
  | unmatchedEnd (claim : PendingClaim)
deriving DecidableEq, Repr

/-- The driver's software state (R262, R263). A handler is an opaque capability, known by a number (log 15). -/
structure Soft where
  maxLines : Nat
  ncpus : Nat
  /-- `H[n]`. -/
  handlers : Vector (Option Nat) 256
  /-- Whether the driver keeps the shadow stacks (D50). -/
  tracking : Bool
  /-- `TS[self]`, newest first. -/
  claims : Vector (List PendingClaim) 8
  /-- The holder of the one global lock `L`. -/
  lock : Option CpuId
  /-- The handler calls made, newest first. -/
  calls : List (CpuId × Nat × PendingClaim)
  /-- The log, newest first. -/
  log : List LogEntry
deriving DecidableEq, Repr

/-- A driver program: what it does next, and how it goes on. Each `rd` and `wr` is one access of the block. -/
inductive Prog (α : Type) : Type where
  | done (a : α)
  | rd (i : Instr) (next : Word → Prog α)
  | wr (i : Instr) (next : Prog α)
  | look (next : Soft → Prog α)
  | change (f : Soft → Soft) (next : Prog α)
  | acquire (next : Prog α)
  | release (next : Prog α)

/-- The result of an operation (R260). -/
abbrev Op (α : Type) := Prog (Except DriverError α)

def Prog.ok {α : Type} (a : α) : Op α := .done (.ok a)
def Prog.fail {α : Type} (e : DriverError) : Op α := .done (.error e)

/-- One program after another. -/
def Prog.bind {α β : Type} (p : Prog α) (f : α → Prog β) : Prog β :=
  match p with
  | .done a => f a
  | .rd i next => .rd i (fun w => (next w).bind f)
  | .wr i next => .wr i (next.bind f)
  | .look next => .look (fun s => (next s).bind f)
  | .change g next => .change g (next.bind f)
  | .acquire next => .acquire (next.bind f)
  | .release next => .release (next.bind f)

/-- An operation after another that succeeded; its error is the whole's. -/
def Prog.andThen {α β : Type} (p : Op α) (f : α → Op β) : Op β :=
  p.bind fun r => match r with
    | .ok a => f a
    | .error e => .done (.error e)

/-- The word with bit `n mod 32` alone set (R361). -/
def lineBit (n : Nat) : Word := 1#32 <<< (n % 32)

/-- `chk_range` then `chk_not_sgi` (R265). -/
def checkLine {α : Type} (n : Nat) (next : Op α) : Op α :=
  .look fun soft =>
    if n ≥ soft.maxLines then .fail .invalidConfiguration
    else if n < 16 then .fail .unsupportedOperation
    else next

/-- The arrays a driver may read-modify-write (R264). -/
inductive RmwArray where
  | priority | targets | configuration | security
deriving DecidableEq, Repr

/-- Which per-line array it is. -/
def RmwArray.lines : RmwArray → LineArray
  | .priority => .priority
  | .targets => .targets
  | .configuration => .configuration
  | .security => .security

def RmwArray.density (a : RmwArray) : Density := a.lines.density

def RmwArray.read (a : RmwArray) (k : Nat) : Instr :=
  match a with
  | .priority => .rdIcdipr k
  | .targets => .rdIcdiptr k
  | .configuration => .rdIcdicfr k
  | .security => .rdIcdisr k

def RmwArray.write (a : RmwArray) (k : Nat) (v : Word) : Instr :=
  match a with
  | .priority => .wrIcdipr k v
  | .targets => .wrIcdiptr k v
  | .configuration => .wrIcdicfr k v
  | .security => .wrIcdisr k v

/-- `rmw(region, n, d, v)` (R264): under the lock, one read and one write. -/
def rmw (a : RmwArray) (n : Nat) (v : Word) : Op Unit :=
  .acquire <| .rd (a.read (wordIndex n a.density)) fun r =>
    .wr (a.write (wordIndex n a.density) (fieldPut r n a.density v)) <| .release <| .ok ()

/-- R266. -/
def enableLine (n : Nat) : Op Unit :=
  checkLine n <|
    if n ≥ 32 then
      .rd (.rdIcdicfr (n / 16)) fun cfg =>
        if (fieldGet cfg n .d16).getLsbD 0 then
          .rd (.rdIcdiptr (n / 4)) fun tgt =>
            if fieldGet tgt n .d4 = 0 then .fail .invalidConfiguration
            else .wr (.wrIcdiser (n / 32) (lineBit n)) <| .ok ()
        else .wr (.wrIcdiser (n / 32) (lineBit n)) <| .ok ()
    else .wr (.wrIcdiser (n / 32) (lineBit n)) <| .ok ()

/-- R267: the active bit is read, and the line disabled in either case (D46). -/
def disableLine (n : Nat) : Op Unit :=
  checkLine n <| .rd (.rdIcdabr (n / 32)) fun _ => .wr (.wrIcdicer (n / 32) (lineBit n)) <| .ok ()

/-- R268. -/
def setPending (n : Nat) : Op Unit := checkLine n <| .wr (.wrIcdispr (n / 32) (lineBit n)) <| .ok ()

/-- R269. -/
def clearPending (n : Nat) : Op Unit := checkLine n <| .wr (.wrIcdicpr (n / 32) (lineBit n)) <| .ok ()

/-- R270. -/
def setPriority (n : Nat) (p : Byte) : Op Unit := checkLine n <| rmw .priority n ((p &&& prioMask).setWidth 32)

/-- The trigger and the model of `setTriggerMode` (R271). -/
inductive Trigger where
  | level
  | edge
deriving DecidableEq, Repr

inductive Model where
  | modelNN
  | model1N
deriving DecidableEq, Repr

/-- The configuration field of a trigger and a model (R271). -/
def cfgField (t : Trigger) (m : Model) : Word :=
  (match t with | .edge => 0b10 | .level => 0b00) ||| (match m with | .model1N => 0b01 | .modelNN => 0b00)

/-- R271. -/
def setTriggerMode (n : Nat) (t : Trigger) (m : Model) : Op Unit :=
  checkLine n <| .rd (.rdIcdiser (n / 32)) fun en =>
    if en.getLsbD (n % 32) then .fail .invalidConfiguration
    else if n ≥ 32 then
      .rd (.rdIcdicfr (n / 16)) fun old =>
        if (fieldGet old n .d16).getLsbD 0 != (cfgField t m).getLsbD 0 then
          .rd (.rdIcdispr (n / 32)) fun pend =>
            if pend.getLsbD (n % 32) then .fail .invalidConfiguration
            else
              .rd (.rdIcdabr (n / 32)) fun act =>
                if act.getLsbD (n % 32) then .fail .invalidConfiguration
                else rmw .configuration n (cfgField t m)
        else rmw .configuration n (cfgField t m)
    else rmw .configuration n (cfgField t m)

/-- R272: the range of the mask is checked before anything is read. -/
def setTarget (n cpuMask : Nat) : Op Unit :=
  checkLine n <| .look fun soft =>
    if cpuMask / 2 ^ soft.ncpus ≠ 0 then .fail .invalidConfiguration
    else if n < 32 then .fail .unsupportedOperation
    else
      .rd (.rdIcdicfr (n / 16)) fun cfg =>
        if cpuMask = 0 ∧ (fieldGet cfg n .d16).getLsbD 0 then .fail .invalidConfiguration
        else rmw .targets n (BitVec.ofNat 32 cpuMask)

/-- R273. -/
def globalEnable : Op Unit := .wr (.wrIcddcr 3) <| .ok ()
def globalDisable : Op Unit := .wr (.wrIcddcr 0) <| .ok ()

/-- The bit of one group in ICDDCR (R273). -/
def groupBit : Group → Word
  | .g0 => 1
  | .g1 => 2

/-- The single-group forms (R273). -/
def groupEnable (g : Group) : Op Unit :=
  .acquire <| .rd .rdIcddcr fun r => .wr (.wrIcddcr (r ||| groupBit g)) <| .release <| .ok ()
def groupDisable (g : Group) : Op Unit :=
  .acquire <| .rd .rdIcddcr fun r => .wr (.wrIcddcr (r &&& ~~~ groupBit g)) <| .release <| .ok ()

/-- R274. -/
def setPriorityMask (p : Word) : Op Unit := .wr (.wrIccpmr (p &&& 0xFF)) <| .ok ()

/-- The five documented groupings (R275). -/
inductive BinaryPoint where
  | allBits | top3 | top2 | top1 | noPreemption
deriving DecidableEq, Repr

def BinaryPoint.value : BinaryPoint → Word
  | .allBits => 3
  | .top3 => 4
  | .top2 => 5
  | .top1 => 6
  | .noPreemption => 7

/-- R275. -/
def setBinaryPoint (bp : BinaryPoint) : Op Unit := .wr (.wrIccbpr bp.value) <| .ok ()

/-- A claim is pushed on the shadow stack of a CPU (R276). -/
def Soft.pushClaim (soft : Soft) (self : CpuId) (claim : PendingClaim) : Soft :=
  { soft with claims := tabUpdate (fun i l => if i = self.val then claim :: l else l) soft.claims }

/-- The shadow stack of a CPU loses its newest claim (R277). -/
def Soft.popClaim (soft : Soft) (self : CpuId) : Soft :=
  { soft with claims := tabUpdate (fun i l => if i = self.val then l.tail else l) soft.claims }

/-- R276: 1023 is the empty result; 1022 claims nothing and is not tracked. -/
def acknowledge (self : CpuId) : Op PendingClaim :=
  .rd .rdIcciar fun r =>
    if (PendingClaim.ofRaw r).id = 1023 then .fail .spuriousClaim
    else .look fun soft =>
      if soft.tracking ∧ (PendingClaim.ofRaw r).id ≠ 1022 then
        .change (fun soft => soft.pushClaim self (PendingClaim.ofRaw r)) <| .ok (PendingClaim.ofRaw r)
      else .ok (PendingClaim.ofRaw r)

/-- R277, R278: with tracking, a claim that is not the newest is reported and not written. -/
def endOfInterrupt (self : CpuId) (claim : PendingClaim) : Op Unit :=
  .look fun soft =>
    if soft.tracking then
      if soft.claims[self].head? = some claim then
        .change (fun soft => soft.popClaim self) <| .wr (.wrIcceoir claim.raw) <| .ok ()
      else
        .change (fun soft => { soft with log := .unmatchedEnd claim :: soft.log }) <| .fail .unmatchedEndOfInterrupt
    else .wr (.wrIcceoir claim.raw) <| .ok ()

/-- R279. -/
def runningPriority : Op Byte := .rd .rdIccrpr fun r => .ok (r.setWidth 8)
def highestPending : Op (Nat × Nat) := .rd .rdIcchpir fun r => .ok (claimId r, claimSrc r)

/-- The target filters of `sendSGI` (R281). -/
inductive SgiFilter where
  | list
  | allOther
  | self
deriving DecidableEq, Repr

/-- The written word of a send: filter, list, ID (R281). -/
def sgiWord (filter list id : Nat) : Word := BitVec.ofNat 32 (filter * 2 ^ 24 + list * 2 ^ 16 + id)

/-- R281: under `allOther` the list written is the complement of the sender (C6). -/
def sendSGI (self : CpuId) (id : Nat) (filter : SgiFilter) (mask : Nat) : Op Unit :=
  if id > 15 then .fail .invalidConfiguration
  else .look fun soft =>
    match filter with
    | .list =>
      if mask = 0 ∨ mask / 2 ^ soft.ncpus ≠ 0 then .fail .invalidConfiguration
      else .wr (.wrIcdsgir (sgiWord 0 mask id)) <| .ok ()
    | .allOther =>
      .wr (.wrIcdsgir (sgiWord 1 (if self.val < soft.ncpus then 2 ^ soft.ncpus - 1 - 2 ^ self.val else 2 ^ soft.ncpus - 1) id))
        <| .ok ()
    | .self => .wr (.wrIcdsgir (sgiWord 2 0 id)) <| .ok ()

/-- A slot of the handler table is replaced by one atomic store (R282, R367). -/
def Soft.setHandler (soft : Soft) (n : Nat) (h : Option Nat) : Soft := { soft with handlers := tabSet soft.handlers n h }

/-- R282. -/
def attach (n h : Nat) : Op Unit :=
  .look fun soft =>
    if n ≥ soft.maxLines then .fail .invalidConfiguration
    else .change (fun soft => soft.setHandler n (some h)) <| .ok ()

/-- R282. -/
def detach (n : Nat) : Op Unit :=
  .look fun soft =>
    if n ≥ soft.maxLines then .fail .invalidConfiguration
    else .change (fun soft => soft.setHandler n none) <| .ok ()

/-- `H[n]`, `none` at or above `MAX_LINES` (R280). -/
def Soft.handlerOf (soft : Soft) (n : Nat) : Option Nat := if n < soft.maxLines then tabGet soft.handlers none n else none

/-- What each handler does with a claim: a program of its own, which may make any access and run a `dispatch` itself
(R280; log 15). -/
abbrev Handlers := Nat → PendingClaim → Prog Unit

/-- R280: a spurious claim, or 1022, is a no-op; otherwise the handler runs to its end, or its absence is logged, and
then the interrupt is ended with the same claim. -/
def dispatch (handlers : Handlers) (self : CpuId) : Op Unit :=
  (acknowledge self).bind fun result =>
    match result with
    | .error _ => .ok ()
    | .ok claim =>
      if claim.id = 1022 then .ok ()
      else .look fun soft =>
        match soft.handlerOf claim.id with
        | none => .change (fun soft => { soft with log := .noHandler claim :: soft.log }) <| endOfInterrupt self claim
        | some h =>
          .change (fun soft => { soft with calls := (self, h, claim) :: soft.calls }) <|
            (handlers h claim).bind fun _ => endOfInterrupt self claim

/-- The facade's names (R283). -/
def facadeEnable (n : Nat) : Op Unit := enableLine n
def facadeDisable (n : Nat) : Op Unit := disableLine n
def facadeSetPriority (n : Nat) (p : Byte) : Op Unit := setPriority n p
def facadeSetAffinity (n cpuMask : Nat) : Op Unit := setTarget n cpuMask

/-- What software derives from ICDICTR (R157). -/
def maxLinesOf (ictr : Word) : Nat := 32 * ((ictr.extractLsb' 0 5).toNat + 1)
def cpuCountOf (ictr : Word) : Nat := (ictr.extractLsb' 5 3).toNat + 1

/-- Boot step 2 (R353): the line count and the CPU count are read once. -/
def bootInit : Op Unit :=
  .rd .rdIcdictr fun r => .change (fun soft => { soft with maxLines := maxLinesOf r, ncpus := cpuCountOf r }) <| .ok ()

/-- Boot step 3 (R353), for one SPI: disable, clear pending, configuration, priority, targets, group. -/
def bootLine (n : Nat) (t : Trigger) (m : Model) (p : Byte) (targets : Word) (g : Group) : Op Unit :=
  .wr (.wrIcdicer (n / 32) (lineBit n)) <| .wr (.wrIcdicpr (n / 32) (lineBit n)) <|
    (rmw .configuration n (cfgField t m)).andThen fun _ =>
      (rmw .priority n ((p &&& prioMask).setWidth 32)).andThen fun _ =>
        (rmw .targets n targets).andThen fun _ =>
          rmw .security n (match g with | .g0 => 0 | .g1 => 1)

/-- Boot step 6 (R353), for the calling CPU: one PPI's configuration and one private ID's priority at a time, then
`bootCpu`. -/
def bootPpiCfg (n : Nat) (t : Trigger) (m : Model) : Op Unit := rmw .configuration n (cfgField t m)
def bootPrivatePrio (n : Nat) (p : Byte) : Op Unit := rmw .priority n ((p &&& prioMask).setWidth 32)

/-- The rest of boot step 6 (R353): binary point, mask, both groups on. -/
def bootCpu (bp : BinaryPoint) (mask : Word) : Op Unit :=
  (setBinaryPoint bp).andThen fun _ => (setPriorityMask mask).andThen fun _ => .wr (.wrIccicr 3) <| .ok ()

/-- The block and the driver's software state, with the accesses the driver has issued, newest first. -/
structure World where
  hw : State
  soft : Soft
  issued : List (CpuId × Instr)
deriving DecidableEq, Repr

/-- How one turn of a program ends; `π` is what is left of the program. -/
inductive Turn (π α : Type) where
  | more (p : π) (w : World)
  | finished (a : α) (w : World)
  /-- Another CPU holds the lock (R263). -/
  | waiting (w : World)
  | faulted (f : Fault) (w : World)
  | refused (r : Refusal) (w : World)

/-- One access of the driver on CPU `self`: a halted block performs none (R330). -/
def State.issue (s : State) (self : CpuId) (i : Instr) : Host.Outcome State Fault Refusal :=
  s.halted.getD (exec i (s.start self i))

/-- The world after an access that left the block in `t`. -/
def World.after (w : World) (self : CpuId) (i : Instr) (t : State) : World :=
  { w with hw := t, issued := (self, i) :: w.issued }

/-- The world after an access that faulted (R330). -/
def World.afterFault (w : World) (self : CpuId) (i : Instr) (f : Fault) : World :=
  w.after self i ((w.hw.start self i).recordFault f)

def World.withSoft (w : World) (f : Soft → Soft) : World := { w with soft := f w.soft }

/-- One turn of a program that runs on CPU `self`: any other agent's steps may come before the next (R90, R360). A
read goes on with the value returned. -/
def Prog.turn {α : Type} (self : CpuId) (p : Prog α) (w : World) : Turn (Prog α) α :=
  match p with
  | .done a => .finished a w
  | .rd i next =>
    match w.hw.issue self i with
    | .next t => .more (next (t.rdata.getD 0)) (w.after self i t)
    | .fault f => .faulted f (w.afterFault self i f)
    | .refused r => .refused r w
  | .wr i next =>
    match w.hw.issue self i with
    | .next t => .more next (w.after self i t)
    | .fault f => .faulted f (w.afterFault self i f)
    | .refused r => .refused r w
  | .look next => .more (next w.soft) w
  | .change f next => .more next (w.withSoft f)
  | .acquire next =>
    match w.soft.lock with
    | none => .more next (w.withSoft fun soft => { soft with lock := some self })
    | some _ => .waiting w
  | .release next => .more next (w.withSoft fun soft => { soft with lock := none })

/-- A program run on CPU `self` with no other agent's step between its turns. -/
def Prog.run {α : Type} (self : CpuId) (p : Prog α) (w : World) : Turn (Prog α) α :=
  match p with
  | .done a => .finished a w
  | .rd i next =>
    match w.hw.issue self i with
    | .next t => (next (t.rdata.getD 0)).run self (w.after self i t)
    | .fault f => .faulted f (w.afterFault self i f)
    | .refused r => .refused r w
  | .wr i next =>
    match w.hw.issue self i with
    | .next t => next.run self (w.after self i t)
    | .fault f => .faulted f (w.afterFault self i f)
    | .refused r => .refused r w
  | .look next => (next w.soft).run self w
  | .change f next => next.run self (w.withSoft f)
  | .acquire next =>
    match w.soft.lock with
    | none => next.run self (w.withSoft fun soft => { soft with lock := some self })
    | some _ => .waiting w
  | .release next => next.run self (w.withSoft fun soft => { soft with lock := none })

/-- The programs that run on one CPU: the first runs, each over the one it interrupted (R280). -/
abbrev Running := List (Op Unit)

/-- A trap on CPU `self` begins a `dispatch` over what runs there. When the processor takes one (a handler may itself
enable interrupts, R280) is its own affair (R5, R322), so any turn may be the next. -/
def Running.trap (handlers : Handlers) (self : CpuId) (ps : Running) : Running := dispatch handlers self :: ps

/-- One turn of the newest program; when it has ended, what it interrupted goes on. -/
def Running.turn (self : CpuId) (ps : Running) (w : World) : Turn Running Unit :=
  match ps with
  | [] => .finished () w
  | p :: rest =>
    match p.turn self w with
    | .more q w2 => .more (q :: rest) w2
    | .finished _ w2 => .more rest w2
    | .waiting w2 => .waiting w2
    | .faulted f w2 => .faulted f w2
    | .refused r w2 => .refused r w2

end Sys2Proof.Machine
end

