-- ==== Sys2Proof/Safety.lean ====
section
/-! DEFINITION. What claims about runs of the block are stated in: the invariants the spec names, executions, and the
fairness of the forwarding draw (spec/10 R38, R39, R48, R51, spec/43 R207, spec/45 R241, spec/60 R319). -/

namespace Sys2Proof.Machine

/-- A state in which nothing has gone wrong: proofs are about executions that do not fault (R330). -/
def State.safe (s : State) : Bool := s.fault.isNone && !s.refused

/-- `t` is `s` but for the lines of the Distributor. -/
def State.SameButLines (s t : State) : Prop := t = { s with bank := t.bank, spi := t.spi }

/-- `t` is `s` but for the CPU interface of `c`. -/
def State.SameButInterface (s t : State) (c : CpuId) : Prop :=
  t = { s with cpuIf := t.cpuIf } ∧ ∀ c2, c2 ≠ c → t.ifOf c2 = s.ifOf c2

/-- What becomes of every line of the Distributor: `sgi c n old new` for every SGI, `ppi c n old new` for every PPI and
`spi n old new` for every SPI. -/
def State.LinesBecome (s t : State) (sgi : CpuId → Nat → SgiLine → SgiLine → Prop)
    (ppi : CpuId → Nat → PpiLine → PpiLine → Prop) (spi : Nat → SpiLine → SpiLine → Prop) : Prop :=
  (∀ c n, n < 16 → sgi c n (s.sgiOf c n) (t.sgiOf c n)) ∧
  (∀ c n, 16 ≤ n → n < 32 → ppi c n (s.ppiOf c n) (t.ppiOf c n)) ∧
  (∀ n, 32 ≤ n → spi n (s.spiOf n) (t.spiOf n))

/-- Read `i` of word `k` of a density-32 array completes, changes nothing but the returned value, and returns 1 in bit
`j` exactly when ID `32 * k + j` is implemented and has `bit` (R170). -/
def State.ReturnsBits (s : State) (i : Instr) (k : Nat) (bit : Nat → Prop) : Prop :=
  ∃ w : Word, exec i s = .next { s with rdata := some w } ∧
    ∀ j, j < 32 → (w.getLsbD j = true ↔ 32 * k + j < s.par.maxl ∧ bit (32 * k + j))

/-- Read `i` of word `k` of a packed array completes, changes nothing but the returned value, and returns in field `j`
the `field` of ID `d * k + j`, 0 for an ID that is not implemented (R200). -/
def State.ReturnsFields (s : State) (i : Instr) (k : Nat) (d : Density) (field : Nat → Nat) : Prop :=
  ∃ w : Word, exec i s = .next { s with rdata := some w } ∧
    ∀ j, j < d.fields → w.toNat / 2 ^ (j * d.width) % 2 ^ d.width =
      if d.fields * k + j < s.par.maxl then field (d.fields * k + j) else 0

/-- SPI `n` holds no latched pending and no active state: the contrary of R206's `spi_busy`. -/
def State.SpiIdle (s : State) (n : Nat) : Prop :=
  (s.spiOf n).latch1 = false ∧ (s.spiOf n).act1 = none ∧
  ∀ c : CpuId, c.val < s.par.ncpu → (s.spiOf n).latchN[c] = false ∧ (s.spiOf n).actN[c] = false

/-- `t` is `s` after CPU `c` claimed `e`, but for the returned value (R307). -/
def State.Claimed (s t : State) (c : CpuId) (e : Entry) : Prop :=
  t = { s with bank := t.bank, spi := t.spi, cpuIf := t.cpuIf, rdata := t.rdata } ∧
  (∀ c2, t.ifOf c2 = if c2 = c then { s.ifOf c2 with stk := e :: (s.ifOf c2).stk } else s.ifOf c2) ∧
  s.LinesBecome t
    (fun c2 n old new =>
      if c2 = c ∧ n = e.id then
        new = { old with pend := new.pend, act := some e.src } ∧
        ∀ src : CpuId, new.pend[src] = (old.pend[src] && decide (src ≠ e.src))
      else new = old)
    (fun c2 n old new => new = if c2 = c ∧ n = e.id then { old with latch := false, act := true } else old)
    (fun n old new =>
      if n < s.par.maxl ∧ n = e.id then
        if old.cfg.getLsbD 0 then new = { old with latch1 := false, act1 := some c }
        else
          new = { old with latchN := new.latchN, actN := new.actN } ∧
          ∀ c2 : CpuId, new.latchN[c2] = (old.latchN[c2] && decide (c2 ≠ c)) ∧
            new.actN[c2] = (old.actN[c2] || decide (c2 = c))
      else new = old)

/-- `t` is `s` after CPU `c` released its top entry `e` (R308). -/
def State.Released (s t : State) (c : CpuId) (e : Entry) : Prop :=
  t = { s with bank := t.bank, spi := t.spi, cpuIf := t.cpuIf } ∧
  (∀ c2, t.ifOf c2 = if c2 = c then { s.ifOf c2 with stk := (s.ifOf c2).stk.tail } else s.ifOf c2) ∧
  s.LinesBecome t
    (fun c2 n old new => new = if c2 = c ∧ n = e.id then { old with act := none } else old)
    (fun c2 n old new => new = if c2 = c ∧ n = e.id then { old with act := false } else old)
    (fun n old new =>
      if n < s.par.maxl ∧ n = e.id then
        new = { old with act1 := if old.act1 = some c then none else old.act1, actN := new.actN } ∧
        ∀ c2 : CpuId, new.actN[c2] = (old.actN[c2] && decide (c2 ≠ c))
      else new = old)

/-- R239: the bits ICCBPR selects for preemption, of priorities that hold the four implemented bits only. -/
def groupingMask (b : BitVec 3) : Byte :=
  if b.toNat ≤ 3 then 0xF0 else if b = 4 then 0xE0 else if b = 5 then 0xC0 else if b = 6 then 0x80 else 0x00

/-- R239: the bits ICCABPR selects. -/
def aliasedGroupingMask (b : BitVec 3) : Byte :=
  if b.toNat ≤ 4 then 0xF0 else if b = 5 then 0xE0 else if b = 6 then 0xC0 else 0x80

/-- R38 and R48: the low four bits of every priority and of every priority mask are 0. -/
def State.PrioritiesTruncated (s : State) : Prop :=
  ∀ c : CpuId, (∀ n, n < s.par.maxl → s.prio c n &&& 0x0F = 0) ∧ (s.ifOf c).pmr &&& 0x0F = 0

/-- R39: target masks name implemented CPUs only. -/
def State.TargetsImplemented (s : State) : Prop :=
  ∀ n, 32 ≤ n → n < s.par.maxl → (s.spiOf n).tgt &&& ~~~ s.par.allCpu = 0

/-- R207: the copy of an SPI's pending and active state that its model bit does not select is idle. -/
def State.UnusedCopyIdle (s : State) : Prop :=
  ∀ n, 32 ≤ n → n < s.par.maxl →
    ((s.spiOf n).cfg.getLsbD 0 = true →
      ∀ c : CpuId, c.val < s.par.ncpu → (s.spiOf n).latchN[c] = false ∧ (s.spiOf n).actN[c] = false) ∧
    ((s.spiOf n).cfg.getLsbD 0 = false → (s.spiOf n).latch1 = false ∧ (s.spiOf n).act1 = none)

/-- Instance `(n, src)` is active on CPU `c`, as the lines hold it (R51). -/
def State.ActiveOn (s : State) (c : CpuId) (n : Nat) (src : CpuId) : Prop :=
  if n < 16 then (s.sgiOf c n).act = some src
  else if n < 32 then src = 0 ∧ (s.ppiOf c n).act = true
  else n < s.par.maxl ∧ src = 0 ∧
    (if (s.spiOf n).cfg.getLsbD 0 then (s.spiOf n).act1 = some c else (s.spiOf n).actN[c] = true)

/-- R51: a CPU's active stack holds exactly the instances active on it, no ID twice. -/
def State.StackMatchesActive (s : State) : Prop :=
  ∀ c : CpuId, c.val < s.par.ncpu →
    ((s.ifOf c).stk.map Entry.id).Nodup ∧
    ∀ n src, (∃ e ∈ (s.ifOf c).stk, e.id = n ∧ e.src = src) ↔ s.ActiveOn c n src

/-- R319 (b) and R233: the priorities on an active stack strictly decrease toward the top, and each is a storable value
below 0xF0. -/
def State.StackNests (s : State) : Prop :=
  ∀ c : CpuId, (s.ifOf c).stk.Pairwise (fun newer older => newer.prio < older.prio) ∧
    ∀ e ∈ (s.ifOf c).stk, e.prio &&& 0x0F = 0 ∧ e.prio < 0xF0

/-- The invariant of the block. -/
structure State.Inv (s : State) : Prop where
  prioritiesTruncated : s.PrioritiesTruncated
  targetsImplemented : s.TargetsImplemented
  unusedCopyIdle : s.UnusedCopyIdle
  stackMatchesActive : s.StackMatchesActive
  stackNests : s.StackNests

/-- The block with more accesses and events on their way to it (R88). -/
def State.receive (s : State) (more : List Event) : State := { s with inbox := s.inbox ++ more }

/-- An infinite execution: before its step `k` the agents send `arrive k` (R33), and the step leads to the next state. -/
def Execution (run : Nat → State) (arrive : Nat → List Event) : Prop :=
  ∀ k, step ((run k).receive (arrive k)) = .next (run (k + 1))

/-- The next step of `s` performs access `i` by CPU `c`. -/
def State.Performs (s : State) (c : CpuId) (i : Instr) : Prop :=
  ∃ r rest, s.inbox = .access r :: rest ∧ r.cpu = c ∧ admissionOf s.par r = .admitted i ∧ s.halted = none

/-- An acknowledge by `c` would claim an interrupt: `hppi(c)` exists and passes `signal_ok` (R241). -/
def State.Claimable (s : State) (c : CpuId) : Prop :=
  ∃ e, (s.begin c).hppi c (Config.drawTie (s.begin c).draws) = some e ∧ (s.begin c).signalOk c e = true

/-- A highest-pending read by `c` would name an interrupt: `hppi(c)` exists (R241, R246). -/
def State.Offered (s : State) (c : CpuId) : Prop :=
  ∃ e, (s.begin c).hppi c (Config.drawTie (s.begin c).draws) = some e

/-- R241, for the reads `i` by CPU `c` of an execution: if from `start` on each finds the block `ready`, and there is no
end of them, then not every one of them draws `late`. A state holds the draw of its last such read. -/
def FairReads (run : Nat → State) (arrive : Nat → List Event) (i : Instr) (ready : State → CpuId → Prop) (c : CpuId) :
    Prop :=
  ∀ start, (∀ k, start ≤ k → ((run k).receive (arrive k)).Performs c i → ready (run k) c) →
    (∀ m, ∃ k, m ≤ k ∧ ((run k).receive (arrive k)).Performs c i) →
    ∃ k, start ≤ k ∧ ((run k).receive (arrive k)).Performs c i ∧ (run (k + 1)).late = false

/-- What line `n` of CPU `c` needs of its group's gates to be forwarded: the Distributor enable and the interface enable
of Group 1 if its security bit `sec` is 1, of Group 0 if it is 0 (R37, R47, R313). -/
def State.GatesOpen (s : State) (c : CpuId) (sec : Bool) : Prop :=
  if sec then s.dcrEn1 = true ∧ (s.ifOf c).icr.enableNS = true else s.dcrEn0 = true ∧ (s.ifOf c).icr.enableS = true

/-- The security bit of line `n` as CPU `c` has it (R37). -/
def State.InGroup1 (s : State) (c : CpuId) (n : Nat) : Prop :=
  (if n < 16 then (s.sgiOf c n).sec else if n < 32 then (s.ppiOf c n).sec else (s.spiOf n).sec) = true

end Sys2Proof.Machine
end

