-- ==== Sys2Proof/Certificates/Slice0/Obligations.lean ====
section
/-! DEFINITION. The statements for the provers, family by family of the opcode table, then the steps, the encodings, the
invariants and the driver. -/

open Sys2Proof Sys2Proof.Machine

/- The single registers of the Distributor (spec/41) -/

/-- R150: a read of ICDDCR returns the two enables and zeros. -/
def Obligations.ReadDistributorControl : Prop :=
  ∀ s : State, ∃ w : Word, exec .rdIcddcr s = .next { s with rdata := some w } ∧
    w.getLsbD 0 = s.dcrEn0 ∧ w.getLsbD 1 = s.dcrEn1 ∧ ∀ j, 2 ≤ j → w.getLsbD j = false

/-- R151: a write of ICDDCR sets the two enables and changes nothing else; a read after it returns its two low bits. -/
def Obligations.WriteDistributorControl : Prop :=
  ∀ (s : State) (v : Word), ∃ t : State, exec (.wrIcddcr v) s = .next t ∧
    t = { s with dcrEn0 := v.getLsbD 0, dcrEn1 := v.getLsbD 1 } ∧
    exec .rdIcddcr t = .next { t with rdata := some (v &&& 3) }

/-- R152 and R157: the fields of ICDICTR, and what software derives from them. -/
def Obligations.ReadTypeRegister : Prop :=
  ∀ s : State, ∃ w : Word, exec .rdIcdictr s = .next { s with rdata := some w } ∧
    w.toNat = s.par.itl.val + 32 * (s.par.ncpu - 1) + 1024 + 2048 * s.par.lspi.val ∧
    maxLinesOf w = s.par.maxl ∧ cpuCountOf w = s.par.ncpu

/-- R153 to R156 and R247: the identification registers return the parameters. -/
def Obligations.ReadIdentification : Prop :=
  ∀ s : State,
    exec .rdIcdiidr s = .next { s with rdata := some s.par.distIidr } ∧
    exec .rdIcciidr s = .next { s with rdata := some s.par.cpuifIidr } ∧
    ∀ (k : Nat) (h : k < 4),
      exec (.rdPidr47 k) s = .next { s with rdata := some ((s.par.pidr[4 + k]).setWidth 32) } ∧
      exec (.rdPidr03 k) s = .next { s with rdata := some ((s.par.pidr[k]).setWidth 32) } ∧
      exec (.rdCidr k) s = .next { s with rdata := some ((s.par.cidr[k]).setWidth 32) }

/- The bit arrays (spec/42) -/

/-- R171, R173, R175: reads of the security and enable arrays; SGIs read enabled. -/
def Obligations.ReadSecurityAndEnables : Prop :=
  ∀ (s : State) (k : Nat),
    s.ReturnsBits (.rdIcdisr k) k (fun n =>
      if n < 16 then (s.sgiOf s.cpu n).sec = true
      else if n < 32 then (s.ppiOf s.cpu n).sec = true else (s.spiOf n).sec = true) ∧
    s.ReturnsBits (.rdIcdiser k) k (fun n =>
      n < 16 ∨ (if n < 32 then (s.ppiOf s.cpu n).en = true else (s.spiOf n).en = true)) ∧
    s.ReturnsBits (.rdIcdicer k) k (fun n =>
      n < 16 ∨ (if n < 32 then (s.ppiOf s.cpu n).en = true else (s.spiOf n).en = true))

/-- R177, R179, R182: reads of the pending arrays: latches, asserted level inputs, and every source of an SGI. -/
def Obligations.ReadPending : Prop :=
  ∀ (s : State) (k : Nat) (i : Instr), i = .rdIcdispr k ∨ i = .rdIcdicpr k →
    s.ReturnsBits i k (fun n =>
      if n < 16 then ∃ src : CpuId, src.val < s.par.ncpu ∧ (s.sgiOf s.cpu n).pend[src] = true
      else if n < 32 then
        (s.ppiOf s.cpu n).latch = true ∨ ((s.ppiOf s.cpu n).cfg.getLsbD 1 = false ∧ (s.ppiOf s.cpu n).level = true)
      else if (s.spiOf n).cfg.getLsbD 0 = true then
        (s.spiOf n).latch1 = true ∨ ((s.spiOf n).cfg.getLsbD 1 = false ∧ (s.spiOf n).level = true)
      else
        (∃ c2 : CpuId, c2.val < s.par.ncpu ∧ (s.spiOf n).latchN[c2] = true) ∨
        ((s.spiOf n).cfg.getLsbD 1 = false ∧ (s.spiOf n).level = true))

/-- R181 and R183: a read of the active array. -/
def Obligations.ReadActive : Prop :=
  ∀ (s : State) (k : Nat),
    s.ReturnsBits (.rdIcdabr k) k (fun n =>
      if n < 16 then (s.sgiOf s.cpu n).act ≠ none
      else if n < 32 then (s.ppiOf s.cpu n).act = true
      else if (s.spiOf n).cfg.getLsbD 0 = true then (s.spiOf n).act1 ≠ none
      else ∃ c2 : CpuId, c2.val < s.par.ncpu ∧ (s.spiOf n).actN[c2] = true)

/-- R172: a write of ICDISR writes the security bit of every ID of the word, and nothing else. -/
def Obligations.WriteSecurity : Prop :=
  ∀ (s : State) (k : Nat) (v : Word), ∃ t : State, exec (.wrIcdisr k v) s = .next t ∧ s.SameButLines t ∧
    s.LinesBecome t
      (fun c n old new => new = if c = s.cpu ∧ n / 32 = k then { old with sec := v.getLsbD (n % 32) } else old)
      (fun c n old new => new = if c = s.cpu ∧ n / 32 = k then { old with sec := v.getLsbD (n % 32) } else old)
      (fun n old new => new = if n < s.par.maxl ∧ n / 32 = k then { old with sec := v.getLsbD (n % 32) } else old)

/-- R174 and R176: a write of ICDISER or ICDICER sets or clears the enable of each ID whose bit is written 1, those of
SGIs excepted, and changes nothing else. -/
def Obligations.WriteEnables : Prop :=
  ∀ (s : State) (k : Nat) (v : Word) (b : Bool), ∃ t : State,
    exec (if b then .wrIcdiser k v else .wrIcdicer k v) s = .next t ∧ s.SameButLines t ∧
    s.LinesBecome t
      (fun _ _ old new => new = old)
      (fun c n old new => new = if c = s.cpu ∧ n / 32 = k ∧ v.getLsbD (n % 32) = true then { old with en := b } else old)
      (fun n old new =>
        new = if n < s.par.maxl ∧ n / 32 = k ∧ v.getLsbD (n % 32) = true then { old with en := b } else old)

/-- R178: a write of ICDISPR latches each PPI and SPI whose bit is written 1: the one latch under 1:N, the latch of every
implemented CPU in the target mask under N:N; SGIs are unaffected. -/
def Obligations.WriteSetPending : Prop :=
  ∀ (s : State) (k : Nat) (v : Word), ∃ t : State, exec (.wrIcdispr k v) s = .next t ∧ s.SameButLines t ∧
    s.LinesBecome t
      (fun _ _ old new => new = old)
      (fun c n old new =>
        new = if c = s.cpu ∧ n / 32 = k ∧ v.getLsbD (n % 32) = true then { old with latch := true } else old)
      (fun n old new =>
        if n < s.par.maxl ∧ n / 32 = k ∧ v.getLsbD (n % 32) = true then
          if old.cfg.getLsbD 0 = true then new = { old with latch1 := true }
          else
            new = { old with latchN := new.latchN } ∧
            ∀ c : CpuId, new.latchN[c] = (old.latchN[c] || (decide (c.val < s.par.ncpu) && old.tgt.getLsbD c.val))
        else new = old)

/-- R180: a write of ICDICPR clears the latches of each PPI and SPI whose bit is written 1; SGIs are unaffected. -/
def Obligations.WriteClearPending : Prop :=
  ∀ (s : State) (k : Nat) (v : Word), ∃ t : State, exec (.wrIcdicpr k v) s = .next t ∧ s.SameButLines t ∧
    s.LinesBecome t
      (fun _ _ old new => new = old)
      (fun c n old new =>
        new = if c = s.cpu ∧ n / 32 = k ∧ v.getLsbD (n % 32) = true then { old with latch := false } else old)
      (fun n old new =>
        if n < s.par.maxl ∧ n / 32 = k ∧ v.getLsbD (n % 32) = true then
          new = { old with latch1 := false, latchN := new.latchN } ∧
          ∀ c : CpuId, new.latchN[c] = (old.latchN[c] && decide (s.par.ncpu ≤ c.val))
        else new = old)

/-- R304: clearing the pending state of a level-sensitive line whose input is asserted leaves it pending. -/
def Obligations.AssertedLevelStaysPending : Prop :=
  ∀ (s t : State) (k : Nat) (v : Word) (c : CpuId) (n : Nat), exec (.wrIcdicpr k v) s = .next t →
    16 ≤ n → n < s.par.maxl → s.isLevel c n = true →
    (if n < 32 then (s.ppiOf c n).level else (s.spiOf n).level) = true →
    t.pendView c n = true ∧ t.epend c n 0 = true

/- The packed arrays (spec/43) -/

/-- R201, R203, R205: reads of the priority, target and configuration arrays. -/
def Obligations.ReadFields : Prop :=
  ∀ (s : State) (k : Nat),
    s.ReturnsFields (.rdIcdipr k) k .d4 (fun n =>
      if n < 16 then (s.sgiOf s.cpu n).prio.toNat
      else if n < 32 then (s.ppiOf s.cpu n).prio.toNat else (s.spiOf n).prio.toNat) ∧
    s.ReturnsFields (.rdIcdiptr k) k .d4 (fun n => if n < 32 then 2 ^ s.cpu.val else (s.spiOf n).tgt.toNat) ∧
    s.ReturnsFields (.rdIcdicfr k) k .d16 (fun n =>
      if n < 16 then 2 else if n < 32 then (s.ppiOf s.cpu n).cfg.toNat else (s.spiOf n).cfg.toNat)

/-- R202: a write of ICDIPR stores the four high bits of each field and nothing else. -/
def Obligations.WritePriorities : Prop :=
  ∀ (s : State) (k : Nat) (v : Word), ∃ t : State, exec (.wrIcdipr k v) s = .next t ∧ s.SameButLines t ∧
    s.LinesBecome t
      (fun c n old new =>
        new = if c = s.cpu ∧ n / 4 = k then { old with prio := v.extractLsb' (8 * (n % 4)) 8 &&& 0xF0 } else old)
      (fun c n old new =>
        new = if c = s.cpu ∧ n / 4 = k then { old with prio := v.extractLsb' (8 * (n % 4)) 8 &&& 0xF0 } else old)
      (fun n old new =>
        new = if n < s.par.maxl ∧ n / 4 = k then { old with prio := v.extractLsb' (8 * (n % 4)) 8 &&& 0xF0 } else old)

/-- R204: a write of ICDIPTR stores each SPI's mask within the implemented CPUs; the fields of IDs below 32 are
read-only. -/
def Obligations.WriteTargets : Prop :=
  ∀ (s : State) (k : Nat) (v : Word), ∃ t : State, exec (.wrIcdiptr k v) s = .next t ∧ s.SameButLines t ∧
    s.LinesBecome t
      (fun _ _ old new => new = old)
      (fun _ _ old new => new = old)
      (fun n old new =>
        if n < s.par.maxl ∧ n / 4 = k then
          new = { old with tgt := new.tgt } ∧
          ∀ j, new.tgt.getLsbD j = (decide (j < s.par.ncpu) && (v.extractLsb' (8 * (n % 4)) 8).getLsbD j)
        else new = old)

/-- R206: a write of ICDICFR whose changed fields are those of disabled IDs, and whose changed model bits are those of
idle SPIs, writes every field of the word but those of SGIs, and nothing else. -/
def Obligations.WriteConfiguration : Prop :=
  ∀ (s : State) (k : Nat) (v : Word),
    (∀ n, 16 ≤ n → n < s.par.maxl → n / 16 = k → v.extractLsb' (2 * (n % 16)) 2 ≠ s.cfgOf s.cpu n →
      s.en s.cpu n = false ∧
      (32 ≤ n → v.getLsbD (2 * (n % 16)) ≠ (s.cfgOf s.cpu n).getLsbD 0 → s.SpiIdle n)) →
    ∃ t : State, exec (.wrIcdicfr k v) s = .next t ∧ s.SameButLines t ∧
      s.LinesBecome t
        (fun _ _ old new => new = old)
        (fun c n old new =>
          new = if c = s.cpu ∧ n / 16 = k then { old with cfg := v.extractLsb' (2 * (n % 16)) 2 } else old)
        (fun n old new =>
          new = if n < s.par.maxl ∧ n / 16 = k then { old with cfg := v.extractLsb' (2 * (n % 16)) 2 } else old)

/-- R206 and R321: a write of ICDICFR that changes a field of an enabled ID is fault F7; one that changes no such field
but the model bit of an SPI that is not idle is fault F8. That F7 comes first for fields of different IDs is R321's order
(log 10). -/
def Obligations.ConfigurationFaults : Prop :=
  ∀ (s : State) (k : Nat) (v : Word) (n : Nat), 16 ≤ n → n < s.par.maxl → n / 16 = k →
    (v.extractLsb' (2 * (n % 16)) 2 ≠ s.cfgOf s.cpu n → s.en s.cpu n = true →
      exec (.wrIcdicfr k v) s = .fault .configChangeWhileEnabled) ∧
    ((∀ m, 16 ≤ m → m < s.par.maxl → m / 16 = k → v.extractLsb' (2 * (m % 16)) 2 ≠ s.cfgOf s.cpu m →
        s.en s.cpu m = false) →
      32 ≤ n → v.getLsbD (2 * (n % 16)) ≠ (s.cfgOf s.cpu n).getLsbD 0 → ¬ s.SpiIdle n →
      exec (.wrIcdicfr k v) s = .fault .modelChangeWithState)

/- Software-generated interrupts (spec/44) -/

/-- R220 and R221: a send makes the SGI pending, from the sender, at every implemented CPU of the target set where its
group is NSATT, and changes nothing else; with the reserved target filter it is fault F6. -/
def Obligations.SendSgi : Prop :=
  ∀ (s : State) (v : Word), (v.extractLsb' 24 2 = 3 → exec (.wrIcdsgir v) s = .fault .sgiFilterReserved) ∧
    (v.extractLsb' 24 2 ≠ 3 → ∃ t : State, exec (.wrIcdsgir v) s = .next t ∧ s.SameButLines t ∧
    s.LinesBecome t
      (fun c n old new =>
        new = { old with pend := new.pend } ∧
        ∀ src : CpuId, new.pend[src] = true ↔
          (old.pend[src] = true ∨
            (src = s.cpu ∧ n = (v.extractLsb' 0 4).toNat ∧ c.val < s.par.ncpu ∧ old.sec = v.getLsbD 15 ∧
              (if v.extractLsb' 24 2 = 0 then v.getLsbD (16 + c.val) = true
               else if v.extractLsb' 24 2 = 1 then c ≠ s.cpu
               else c = s.cpu))))
      (fun _ _ old new => new = old)
      (fun _ old new => new = old))

/- The CPU interface (spec/45) -/

/-- R231, R234, R237, R243, R244: reads of the CPU interface that return state. -/
def Obligations.ReadInterface : Prop :=
  ∀ s : State,
    (∃ w : Word, exec .rdIccicr s = .next { s with rdata := some w } ∧
      w.getLsbD 0 = (s.ifOf s.cpu).icr.enableS ∧ w.getLsbD 1 = (s.ifOf s.cpu).icr.enableNS ∧
      w.getLsbD 2 = (s.ifOf s.cpu).icr.ackCtl ∧ w.getLsbD 3 = (s.ifOf s.cpu).icr.fiqEn ∧
      w.getLsbD 4 = (s.ifOf s.cpu).icr.sbpr ∧ ∀ j, 5 ≤ j → w.getLsbD j = false) ∧
    exec .rdIccpmr s = .next { s with rdata := some ((s.ifOf s.cpu).pmr.setWidth 32) } ∧
    exec .rdIccbpr s = .next { s with rdata := some ((s.ifOf s.cpu).bpr.setWidth 32) } ∧
    exec .rdIccabpr s = .next { s with rdata := some ((s.ifOf s.cpu).abpr.setWidth 32) } ∧
    ((s.ifOf s.cpu).stk = [] → exec .rdIccrpr s = .next { s with rdata := some 0xFF }) ∧
    ∀ e rest, (s.ifOf s.cpu).stk = e :: rest → exec .rdIccrpr s = .next { s with rdata := some (e.prio.setWidth 32) }

/-- R232 and R235: writes of ICCICR and ICCPMR, which change one field of the writer's interface. -/
def Obligations.WriteInterface : Prop :=
  ∀ (s : State) (v : Word),
    (∃ t : State, exec (.wrIccicr v) s = .next t ∧ s.SameButInterface t s.cpu ∧
      t.ifOf s.cpu = { s.ifOf s.cpu with icr :=
        { enableS := v.getLsbD 0, enableNS := v.getLsbD 1, ackCtl := v.getLsbD 2, fiqEn := v.getLsbD 3, sbpr := v.getLsbD 4 } }) ∧
    (∃ t : State, exec (.wrIccpmr v) s = .next t ∧ s.SameButInterface t s.cpu ∧
      t.ifOf s.cpu = { s.ifOf s.cpu with pmr := v.extractLsb' 0 8 &&& 0xF0 })

/-- R238 and R245: writes of the binary points. Only bits 2..0 of the word count (R108). A value below the minimum is
stored as written or as the minimum, as the draw of the write says, and another as written. That a write of the same
value as the writer's last one repeats its draw, and so keeps a value that write could leave, is the model's reading of
R86 (log 23); that the draw is free is log 8. -/
def Obligations.WriteBinaryPoints : Prop :=
  ∀ (s : State) (v : Word),
    let b := v.extractLsb' 0 3
    (exec (.wrIccbpr v) s = .next (s.writeBpr (Config.drawBprMin s.draws) v) ∧ ∀ raise : Bool,
      let t := s.writeBpr raise v
      s.SameButInterface t s.cpu ∧
      t.ifOf s.cpu = { s.ifOf s.cpu with bpr := (t.ifOf s.cpu).bpr, bprWritten := some b } ∧
      ((t.ifOf s.cpu).bpr = b ∨ (b.toNat < 3 ∧ (t.ifOf s.cpu).bpr = 3)) ∧
      ((s.ifOf s.cpu).bprWritten ≠ some b →
        (t.ifOf s.cpu).bpr = if b.toNat < 3 ∧ raise = true then 3 else b) ∧
      ((s.ifOf s.cpu).bprWritten = some b → (s.ifOf s.cpu).bpr = b ∨ (b.toNat < 3 ∧ (s.ifOf s.cpu).bpr = 3) →
        (t.ifOf s.cpu).bpr = (s.ifOf s.cpu).bpr)) ∧
    (exec (.wrIccabpr v) s = .next (s.writeAbpr (Config.drawAbprMin s.draws) v) ∧ ∀ raise : Bool,
      let t := s.writeAbpr raise v
      s.SameButInterface t s.cpu ∧
      t.ifOf s.cpu = { s.ifOf s.cpu with abpr := (t.ifOf s.cpu).abpr, abprWritten := some b } ∧
      ((t.ifOf s.cpu).abpr = b ∨ (b.toNat < 4 ∧ (t.ifOf s.cpu).abpr = 4)) ∧
      ((s.ifOf s.cpu).abprWritten ≠ some b →
        (t.ifOf s.cpu).abpr = if b.toNat < 4 ∧ raise = true then 4 else b) ∧
      ((s.ifOf s.cpu).abprWritten = some b → (s.ifOf s.cpu).abpr = b ∨ (b.toNat < 4 ∧ (s.ifOf s.cpu).abpr = 4) →
        (t.ifOf s.cpu).abpr = (s.ifOf s.cpu).abpr))

/-- R239: the groupings of the two binary points, on priorities that hold implemented bits only. -/
def Obligations.BinaryPointGroupings : Prop :=
  ∀ (s : State) (c : CpuId) (p : Byte), p &&& 0x0F = 0 →
    s.gp c .g0 p = p &&& groupingMask (s.ifOf c).bpr ∧
    ((s.ifOf c).icr.sbpr = true → s.gp c .g1 p = p &&& groupingMask (s.ifOf c).bpr) ∧
    ((s.ifOf c).icr.sbpr = false → s.gp c .g1 p = p &&& aliasedGroupingMask (s.ifOf c).abpr)

/-- R240, R307, R319 (a): an acknowledge returns 1023 or 1022 with nothing claimed, or claims a candidate of the least
priority value that passes the mask and the preemption test, and returns its ID and source. -/
def Obligations.AcknowledgeOutcome : Prop :=
  ∀ s : State, ∃ t : State, exec .rdIcciar s = .next t ∧
    (t = { s with rdata := some 1023 } ∨
     ∃ e ∈ s.cand s.cpu, (∀ x ∈ s.cand s.cpu, e.prio.toNat ≤ x.prio.toNat) ∧ s.signalOk s.cpu e = true ∧
       (if s.grp s.cpu e.id = .g1 ∧ (s.ifOf s.cpu).icr.ackCtl = false then t = { s with rdata := some 1022 }
        else t.rdata = some (BitVec.ofNat 32 (e.id + 1024 * e.src.val)) ∧ s.Claimed t s.cpu e))

/-- R240, case by case, for every draw of the encoder: a late acknowledge, one with no candidate and one whose choice may
not be signalled return 1023; one whose choice is Group 1 with AckCtl 0 returns 1022; any other claims its choice. -/
def Obligations.AcknowledgeCases : Prop :=
  ∀ (s : State) (tie : Nat),
    exec .rdIcciar s = .next (s.acknowledge s.late (Config.drawTie s.draws)) ∧
    s.acknowledge true tie = { s with rdata := some 1023 } ∧
    (s.cand s.cpu = [] → s.acknowledge false tie = { s with rdata := some 1023 }) ∧
    (s.cand s.cpu ≠ [] → ∃ e ∈ s.cand s.cpu, (∀ x ∈ s.cand s.cpu, e.prio.toNat ≤ x.prio.toNat) ∧
      (s.signalOk s.cpu e = false → s.acknowledge false tie = { s with rdata := some 1023 }) ∧
      (s.signalOk s.cpu e = true →
        if s.grp s.cpu e.id = .g1 ∧ (s.ifOf s.cpu).icr.ackCtl = false then
          s.acknowledge false tie = { s with rdata := some 1022 }
        else
          (s.acknowledge false tie).rdata = some (BitVec.ofNat 32 (e.id + 1024 * e.src.val)) ∧
          s.Claimed (s.acknowledge false tie) s.cpu e))

/-- R311, field by field (R302, R36, R37, R38, R47, R310, R313): the candidates of a CPU; and the views of a line that
other statements name, its group, enable, priority and configuration (R40), in fields. -/
def Obligations.CandidateConditions : Prop :=
  ∀ (s : State) (c : CpuId),
    (∀ e : Entry, e ∈ s.cand c ↔ e.id < s.par.maxl ∧
      if e.id < 16 then
        let l := s.sgiOf c e.id
        e.src.val < s.par.ncpu ∧ e.prio = l.prio ∧ l.pend[e.src] = true ∧ l.act = none ∧ s.GatesOpen c l.sec
      else if e.id < 32 then
        let l := s.ppiOf c e.id
        e.src = 0 ∧ e.prio = l.prio ∧ (l.latch = true ∨ (l.cfg.getLsbD 1 = false ∧ l.level = true)) ∧ l.act = false ∧
        l.en = true ∧ s.GatesOpen c l.sec
      else
        let l := s.spiOf e.id
        e.src = 0 ∧ e.prio = l.prio ∧ l.en = true ∧ l.tgt.getLsbD c.val = true ∧ s.GatesOpen c l.sec ∧
        if l.cfg.getLsbD 0 then
          (l.latch1 = true ∨ (l.cfg.getLsbD 1 = false ∧ l.level = true)) ∧ l.act1 = none
        else (l.latchN[c] = true ∨ (l.cfg.getLsbD 1 = false ∧ l.level = true)) ∧ l.actN[c] = false) ∧
    ∀ n, (s.grp c n = .g1 ↔ s.InGroup1 c n) ∧
      s.en c n = (if n < 16 then true else if n < 32 then (s.ppiOf c n).en else (s.spiOf n).en) ∧
      s.prio c n = (if n < 16 then (s.sgiOf c n).prio else if n < 32 then (s.ppiOf c n).prio else (s.spiOf n).prio) ∧
      s.cfgOf c n = (if n < 16 then 0b10 else if n < 32 then (s.ppiOf c n).cfg else (s.spiOf n).cfg)

/-- R316, R317, R233, R236: an interrupt may be signalled exactly when its priority is below the mask and, unless the
active stack is empty, its group priority is below that of the top under its own group's mask; and what a group priority
is: the bits from the group's binary point up. -/
def Obligations.SignalConditions : Prop :=
  ∀ (s : State) (c : CpuId),
    (∀ e : Entry, s.signalOk c e = true ↔ e.prio.toNat < (s.ifOf c).pmr.toNat ∧
      ∀ top rest, (s.ifOf c).stk = top :: rest →
        (s.gp c (s.grp c e.id) e.prio).toNat < (s.gp c (s.grp c e.id) top.prio).toNat) ∧
    ∀ (g : Group) (p : Byte),
      let cut := if g = .g0 ∨ (s.ifOf c).icr.sbpr = true then (s.ifOf c).bpr.toNat + 1 else (s.ifOf c).abpr.toNat
      (s.gp c g p).toNat = p.toNat / 2 ^ cut * 2 ^ cut

/-- R314: the encoder picks nothing but candidates of the least priority value, and every one of them under some draw. -/
def Obligations.TieBreakIsFree : Prop :=
  ∀ (s : State) (c : CpuId) (e : Entry),
    (∃ tie, s.hppi c tie = some e) ↔ (e ∈ s.cand c ∧ ∀ x ∈ s.cand c, e.prio.toNat ≤ x.prio.toNat)

/-- R312: an interrupt active on a CPU, and under 1:N an SPI active on any CPU, is no candidate. -/
def Obligations.ActiveIsNotForwarded : Prop :=
  ∀ (s : State) (c : CpuId) (e : Entry), e ∈ s.cand c →
    (e.id < 16 → (s.sgiOf c e.id).act = none) ∧
    (16 ≤ e.id → e.id < 32 → (s.ppiOf c e.id).act = false) ∧
    (32 ≤ e.id → (s.spiOf e.id).cfg.getLsbD 0 = true → (s.spiOf e.id).act1 = none) ∧
    (32 ≤ e.id → (s.spiOf e.id).cfg.getLsbD 0 = false → (s.spiOf e.id).actN[c] = false)

/-- R242 and R308: an end-of-interrupt that names the top of the active stack, by ID and for an SGI by source, releases it
and changes nothing else; any other is fault F5. -/
def Obligations.EndOfInterrupt : Prop :=
  ∀ (s : State) (v : Word),
    (∀ e rest, (s.ifOf s.cpu).stk = e :: rest →
      (v.extractLsb' 0 10).toNat = e.id → (v.extractLsb' 10 3).toNat = (if e.id < 16 then e.src.val else 0) →
      ∃ t : State, exec (.wrIcceoir v) s = .next t ∧ s.Released t s.cpu e) ∧
    ((∀ e rest, (s.ifOf s.cpu).stk = e :: rest →
        ¬ ((v.extractLsb' 0 10).toNat = e.id ∧ (v.extractLsb' 10 3).toNat = (if e.id < 16 then e.src.val else 0))) →
      exec (.wrIcceoir v) s = .fault .eoiMismatch)

/-- R248 and R363: the value an acknowledge returned, written back, ends the interrupt it claimed: the stack and the
running priority are what they were. -/
def Obligations.ClaimIsEndedByItsOwnValue : Prop :=
  ∀ (s : State) (late : Bool) (tie : Nat) (r : Word), (s.acknowledge late tie).rdata = some r → r ≠ 1023 → r ≠ 1022 →
    ∃ u : State, exec (.wrIcceoir r) (s.acknowledge late tie) = .next u ∧ (u.ifOf s.cpu).stk = (s.ifOf s.cpu).stk ∧
      u.runningPrio s.cpu = s.runningPrio s.cpu ∧ ∀ c2, c2 ≠ s.cpu → u.ifOf c2 = s.ifOf c2

/-- R246: a highest-pending read changes nothing but the returned value: 1023 when late or with no candidate, otherwise
1022 or the ID and source of a candidate of the least priority value, whatever the mask. -/
def Obligations.HighestPendingOutcome : Prop :=
  ∀ s : State, ∃ w : Word, exec .rdIcchpir s = .next { s with rdata := some w } ∧
    ((w = 1023 ∧ (s.late = true ∨ s.cand s.cpu = [])) ∨
     s.late = false ∧ ∃ e ∈ s.cand s.cpu, (∀ x ∈ s.cand s.cpu, e.prio.toNat ≤ x.prio.toNat) ∧
       w = (if s.grp s.cpu e.id = .g1 ∧ (s.ifOf s.cpu).icr.ackCtl = false then 1022
            else BitVec.ofNat 32 (e.id + 1024 * e.src.val)))

/-- R319 (c) and (d): no interrupt of priority 0xF0 may be signalled, and none whose group's mask leaves some entry of the
stack a group priority of 0. -/
def Obligations.NeverSignalled : Prop :=
  ∀ (s : State) (c : CpuId) (e : Entry), s.Inv →
    (e.prio = 0xF0 → s.signalOk c e = false) ∧
    ((∃ x ∈ (s.ifOf c).stk, s.gp c (s.grp c e.id) x.prio = 0) → s.signalOk c e = false)

/-- R318: FIQ is up exactly when FIQEn is 1 and, under some draw, the encoder's choice is Group 0 and may be signalled; IRQ
exactly when such a choice is Group 1, or is Group 0 while FIQEn is 0. -/
def Obligations.RequestOutputs : Prop :=
  ∀ (s : State) (c : CpuId),
    (s.fiq c = true ↔ (s.ifOf c).icr.fiqEn = true ∧
      ∃ tie e, s.hppi c tie = some e ∧ s.signalOk c e = true ∧ s.grp c e.id = .g0) ∧
    (s.irq c = true ↔ ∃ tie e, s.hppi c tie = some e ∧ s.signalOk c e = true ∧
      (s.grp c e.id = .g1 ∨ (s.ifOf c).icr.fiqEn = false))

/- Events and reset (spec/60 section 1, spec/70 section 1) -/

/-- R300 and R88: when the oldest event is a level event of an input the block has, the step takes it from the inbox and
sets that level, and a rising edge of an edge-triggered input latches: a PPI's latch, the one latch of a 1:N SPI, every
targeted CPU's latch of an N:N SPI; nothing else changes. -/
def Obligations.LevelEvents : Prop :=
  ∀ (s : State) (rest : List Event), s.fault = none → s.refused = false →
    (∀ (c : CpuId) (n : Nat) (b : Bool), s.inbox = .setLevelPpi c n b :: rest → 16 ≤ n → n < 32 → c.val < s.par.ncpu →
      ∃ t : State, step s = .next t ∧ State.SameButLines { s with inbox := rest } t ∧
        s.LinesBecome t
          (fun _ _ old new => new = old)
          (fun c2 m old new => new =
            if c2 = c ∧ m = n then
              { old with level := b, latch := old.latch || (b && !old.level && old.cfg.getLsbD 1) }
            else old)
          (fun _ old new => new = old)) ∧
    (∀ (n : Nat) (b : Bool), s.inbox = .setLevelSpi n b :: rest → 32 ≤ n → n < s.par.maxl →
      ∃ t : State, step s = .next t ∧ State.SameButLines { s with inbox := rest } t ∧
        s.LinesBecome t
          (fun _ _ old new => new = old)
          (fun _ _ old new => new = old)
          (fun m old new =>
            if m = n then
              if b = true ∧ old.level = false ∧ old.cfg.getLsbD 1 = true then
                if old.cfg.getLsbD 0 = true then new = { old with level := b, latch1 := true }
                else
                  new = { old with level := b, latchN := new.latchN } ∧
                  ∀ c : CpuId, new.latchN[c] =
                    (old.latchN[c] || (decide (c.val < s.par.ncpu) && old.tgt.getLsbD c.val))
              else new = { old with level := b }
            else new = old))

/-- R350 and R53: when the oldest event is a reset, the step leaves every piece of state at its reset value, the drawn
fields at any value, and the input levels as they were. That a block halted by a fault or a refusal takes it too, against
R330 and R52, and that what is still to reach the block stays, is the model's reading (log 9). -/
def Obligations.ResetEvent : Prop :=
  ∀ (s : State) (rest : List Event), s.inbox = .reset :: rest → ∃ t : State, step s = .next t ∧
    t.par = s.par ∧ t.dcrEn0 = false ∧ t.dcrEn1 = false ∧ t.fault = none ∧ t.refused = false ∧ t.inbox = rest ∧
    s.LinesBecome t
      (fun _ _ _ new => new = { sec := false, prio := 0, pend := Vector.replicate 8 false, act := none })
      (fun _ _ old new => new =
        { en := false, sec := false, prio := 0, cfg := new.cfg, latch := false, act := false, level := old.level })
      (fun n old new => n < s.par.maxl → new =
        { en := false, sec := false, prio := 0, tgt := 0, cfg := new.cfg, latch1 := false, act1 := none,
          latchN := Vector.replicate 8 false, actN := Vector.replicate 8 false, level := old.level }) ∧
    ∀ c, t.ifOf c =
      { icr := { enableS := false, enableNS := false, ackCtl := false, fiqEn := false, sbpr := false },
        pmr := 0, bpr := (t.ifOf c).bpr, abpr := (t.ifOf c).abpr, stk := [], bprWritten := none, abprWritten := none }

/-- R351 and R55: what the registers read after reset, for every parameter set, all input levels and all draws, the
`late` draw of the read among them. -/
def Obligations.ReadsAfterReset : Prop :=
  ∀ (par : Params) (lv : Levels) (d : ResetDraw) (c : CpuId) (late : Bool),
    let s := { (State.afterReset par lv d).begin c with late := late }
    (∀ c2, s.cand c2 = []) ∧
    exec .rdIcddcr s = .next { s with rdata := some 0 } ∧
    (∃ w : Word, exec .rdIcdictr s = .next { s with rdata := some w } ∧
      w.toNat = par.itl.val + 32 * (par.ncpu - 1) + 1024 + 2048 * par.lspi.val) ∧
    (∀ k, s.ReturnsBits (.rdIcdispr k) k (fun n => 16 ≤ n ∧ s.isLevel c n = true ∧
      (if n < 32 then (s.ppiOf c n).level else (s.spiOf n).level) = true)) ∧
    (∀ k, exec (.rdIcdisr k) s = .next { s with rdata := some 0 } ∧
      exec (.rdIcdabr k) s = .next { s with rdata := some 0 } ∧
      exec (.rdIcdipr k) s = .next { s with rdata := some 0 } ∧
      exec (.rdIcdiser k) s = .next { s with rdata := some (if k = 0 then 0x0000FFFF else 0) } ∧
      exec (.rdIcdicer k) s = .next { s with rdata := some (if k = 0 then 0x0000FFFF else 0) } ∧
      exec (.rdIcdiptr k) s =
        .next { s with rdata := some (if k ≤ 7 then 0x01010101 * BitVec.ofNat 32 (2 ^ c.val) else 0) }) ∧
    exec (.rdIcdicfr 0) s = .next { s with rdata := some 0xAAAAAAAA } ∧
    exec .rdIccicr s = .next { s with rdata := some 0 } ∧
    exec .rdIccpmr s = .next { s with rdata := some 0 } ∧
    exec .rdIcciar s = .next { s with rdata := some 1023 } ∧
    exec .rdIccrpr s = .next { s with rdata := some 0xFF } ∧
    exec .rdIcchpir s = .next { s with rdata := some 1023 }

/- Steps (spec/20, spec/30 R109, spec/60 R320, R321, R330, R331) -/

/-- R88 and R109: when the oldest request is a Secure 32-bit access by an implemented CPU at an address of a window and
decodes to `i`, the step is `exec` of `i` for that issuer, with nothing returned yet, the request consumed, the step
counted, and the forwarding draw made if `i` is one of the two reads that have one (log 6); a fault of `i` is recorded
(R330; log 1). -/
def Obligations.StepRunsDecodedInstruction : Prop :=
  ∀ (s : State) (r : Request) (rest : List Event) (win : Win) (off : BitVec 12) (i : Instr),
    s.inbox = .access r :: rest → s.fault = none → s.refused = false → r.cpu.val < s.par.ncpu → r.secure = true →
    windowOf s.par r.addr = some (win, off) → decodeAccess r.dir win off r.width r.data = .ok i →
    let b := State.start { s with inbox := rest } r.cpu i
    b = { s with
      inbox := rest, cpu := r.cpu, rdata := none, draws := s.draws + 1
      late := b.late, ackRun := b.ackRun, peekRun := b.peekRun } ∧
    (i ≠ .rdIcciar → i ≠ .rdIcchpir → b.late = s.late ∧ b.ackRun = s.ackRun ∧ b.peekRun = s.peekRun) ∧
    (∀ t, exec i b = .next t → step s = .next t) ∧
    (∀ f, exec i b = .fault f → step s = .next { b with fault := some f })

/-- R80, R109 and R112: in a block with legal parameters the machine form of every well-formed access, by an implemented
CPU, is admitted as that access. -/
def Obligations.RequestReachesItsRegister : Prop :=
  ∀ (par : Params) (i : Instr) (c : CpuId), par.legal = true → i.wellFormed = true → c.val < par.ncpu →
    admissionOf par (requestOf i par c) = .admitted i

/-- R84, R87, R109, R321, R330: the decode faults of an access, in their order, and the fault F2, F3, F4 or F1 that the
step of a Secure access which has one records, returning nothing and changing nothing else. -/
def Obligations.DecodeFaults : Prop :=
  (∀ (dir : Dir) (win : Win) (off : BitVec 12) (width : Nat) (v : Word),
    ((width ≠ 32 ∨ off.toNat % 4 ≠ 0) → decodeAccess dir win off width v = .error .badWidthOrAlignment) ∧
    (width = 32 → off.toNat % 4 = 0 →
      (∀ i : Instr, i.wellFormed = true → ¬ (i.win = win ∧ i.off = off.toNat)) →
      decodeAccess dir win off width v = .error .unmappedOffset) ∧
    (width = 32 → off.toNat % 4 = 0 →
      (∀ i : Instr, i.wellFormed = true → ¬ (i.dir = dir ∧ i.win = win ∧ i.off = off.toNat)) →
      (∃ i : Instr, i.wellFormed = true ∧ i.win = win ∧ i.off = off.toNat) →
      decodeAccess dir win off width v =
        .error (if dir = .wr then .writeToReadOnly else .readOfWriteOnly))) ∧
  ∀ (s : State) (r : Request) (rest : List Event) (win : Win) (off : BitVec 12) (e : DecodeError),
    s.inbox = .access r :: rest → s.fault = none → s.refused = false → r.cpu.val < s.par.ncpu → r.secure = true →
    windowOf s.par r.addr = some (win, off) → decodeAccess r.dir win off r.width r.data = .error e →
    ∃ f : Fault, step s = .next
        { s with inbox := rest, cpu := r.cpu, rdata := none, draws := s.draws + 1, fault := some f } ∧
      (e = .badWidthOrAlignment → f = .badWidthOrAlignment) ∧ (e = .writeToReadOnly → f = .writeToReadOnly) ∧
      (e = .readOfWriteOnly → f = .readOfWriteOnly) ∧ (e = .unmappedOffset → f = .unmappedOffset)

/-- R321 and R331: an access that is not Secure is refused before any decode: the refusal is recorded, nothing of the
block's own state changes, and no further step but a reset is taken (that a reset is one is the model's reading, log 9). -/
def Obligations.NonsecureIsRefused : Prop :=
  ∀ (s : State) (r : Request) (rest : List Event), s.inbox = .access r :: rest → s.fault = none → s.refused = false →
    r.cpu.val < s.par.ncpu → r.secure = false → windowOf s.par r.addr ≠ none →
    ∃ t : State, step s = .next t ∧
      t = { s with refused := true, inbox := rest, cpu := r.cpu, rdata := none, draws := s.draws + 1 } ∧
      ((∀ rest2, rest ≠ .reset :: rest2) → step t = .refused .nonsecureAccess)

/-- R330: a step that records a fault changes nothing of the block's own state, and a model with a recorded fault takes
no step but a reset (that a fault is first recorded by a step and then halts, and that a reset is a step, is the model's
reading, logs 1 and 9). -/
def Obligations.FaultIsRecordedAndHalts : Prop :=
  ∀ (s t : State), s.fault = none → step s = .next t → ∀ f, t.fault = some f →
    t = { s with fault := some f, inbox := t.inbox, cpu := t.cpu, rdata := none, draws := t.draws } ∧
    ((∀ rest, t.inbox ≠ .reset :: rest) → step t = .fault f)

/-- R31 and R81: with nothing to perform a step changes nothing, and an access at an address of neither window changes
nothing of the block's own state. -/
def Obligations.NothingReachesTheBlock : Prop :=
  ∀ s : State, s.fault = none → s.refused = false →
    (s.inbox = [] → step s = .next s) ∧
    ∀ r rest, s.inbox = .access r :: rest → r.cpu.val < s.par.ncpu → windowOf s.par r.addr = none →
      step s = .next { s with inbox := rest, cpu := r.cpu, rdata := none, draws := s.draws + 1 }

/-- R241: in every execution the forwarding draws are fair to the acknowledges and to the highest-pending reads of every
CPU: such reads that go on for ever, each of which finds an interrupt, do not all answer late (that R241 is about reads
that go on for ever is the model's reading, log 17). -/
def Obligations.ForwardingIsFair : Prop :=
  ∀ (run : Nat → State) (arrive : Nat → List Event) (c : CpuId), Execution run arrive →
    FairReads run arrive .rdIcciar State.Claimable c ∧ FairReads run arrive .rdIcchpir State.Offered c

/- Encodings (spec/30) -/

/-- R101: words written out from the opcode table decode to their accesses. -/
def Obligations.TableWordsDecode : Prop :=
  decodeTableWord 16 0x0000 = some .rdIcddcr ∧ decodeTableWord 48 0x00000020_2104 = some (.wrIcdiser 1 0x20) ∧
  decodeTableWord 48 0x0000A000_2424 = some (.wrIcdipr 9 0xA000) ∧ decodeTableWord 16 0x0C08 = some (.rdIcdicfr 2) ∧
  decodeTableWord 48 0x00040003_2F00 = some (.wrIcdsgir 0x40003) ∧ decodeTableWord 16 0x0FE8 = some (.rdPidr03 2) ∧
  decodeTableWord 16 0x100C = some .rdIcciar ∧ decodeTableWord 48 0x00000025_3010 = some (.wrIcceoir 0x25) ∧
  decodeTableWord 16 0x2004 = none ∧ decodeTableWord 16 0x0F00 = none ∧ decodeTableWord 16 0x000C = none

/-- R101, R102: for every well-formed access, decoding its encoding gives it back, with its index and its data at every
value. -/
def Obligations.DecodeOfEncode : Prop :=
  ∀ i : Instr, i.wellFormed = true →
    decode i.encode = .ok i ∧ decodeAccess i.dir i.win (BitVec.ofNat 12 i.off) 32 i.data = .ok i

/-- R109: what the decoder accepts is a well-formed access at exactly the place it was asked for, with the data it was
given. -/
def Obligations.DecodeIsExact : Prop :=
  ∀ (dir : Dir) (win : Win) (off : BitVec 12) (width : Nat) (v : Word) (i : Instr),
    decodeAccess dir win off width v = .ok i →
    width = 32 ∧ i.wellFormed = true ∧ i.dir = dir ∧ i.win = win ∧ i.off = off.toNat ∧ (dir = .wr → i.data = v)

/-- R109: no key is selected by two rows of the opcode table. -/
def Obligations.RowsDoNotOverlap : Prop :=
  opcodeRows.Pairwise (fun r1 r2 => ∀ key : BitVec 14, ¬ (r1.selects key = true ∧ r2.selects key = true))

/- The addressing layer (spec/40) -/

/-- R140 (1), (3), (6): the mask of an ID is `32 / d` bits at its shift, two IDs share a word exactly when their quotients
by `d` agree, with disjoint masks, and every bit of a word belongs to one of its IDs. -/
def Obligations.MasksPartitionTheWord : Prop :=
  ∀ (n m : Nat) (d : Density),
    bitShift n d < 32 ∧
    (∀ j, (bitMask n d).getLsbD j = (decide (bitShift n d ≤ j) && decide (j < bitShift n d + d.width))) ∧
    (wordIndex n d = wordIndex m d ↔ n / d.fields = m / d.fields) ∧
    (n ≠ m → wordIndex n d = wordIndex m d → bitMask n d &&& bitMask m d = 0) ∧
    ∀ k j, j < 32 → ∃ i, i < d.fields ∧ (bitMask (d.fields * k + i) d).getLsbD j = true

/-- R140 (4) and (5): a field put is the field got, and no other field of the word is touched. -/
def Obligations.FieldPutGet : Prop :=
  ∀ (x v : Word) (n m : Nat) (d : Density),
    fieldGet (fieldPut x n d v) n d = v &&& BitVec.ofNat 32 (2 ^ d.width - 1) ∧
    (n ≠ m → wordIndex n d = wordIndex m d → fieldGet (fieldPut x n d v) m d = fieldGet x m d)

/- Invariants and whole-machine rules -/

/-- R38, R39, R48, R51, R207, R319 (b): the invariant holds after reset, for every parameter set, all levels, all draws. -/
def Obligations.ResetHasInvariant : Prop :=
  ∀ (par : Params) (lv : Levels) (d : ResetDraw), (State.afterReset par lv d).Inv

/-- R38, R39, R48, R51, R207, R319 (b): every step keeps the invariant. -/
def Obligations.StepKeepsInvariant : Prop :=
  ∀ s t : State, s.Inv → step s = .next t → t.Inv

/-- R324: the depth of nesting on one CPU is at most the number of storable priorities. -/
def Obligations.NestingIsBounded : Prop :=
  ∀ (s : State) (c : CpuId), s.Inv → (s.ifOf c).stk.length ≤ 16

/-- R91 and R306: a 1:N SPI is active on at most one CPU. -/
def Obligations.OneNIsExclusive : Prop :=
  ∀ (s : State) (c1 c2 : CpuId) (e1 e2 : Entry), s.Inv → c1.val < s.par.ncpu → c2.val < s.par.ncpu →
    e1 ∈ (s.ifOf c1).stk → e2 ∈ (s.ifOf c2).stk → e1.id = e2.id → 32 ≤ e1.id →
    (s.spiOf e1.id).cfg.getLsbD 0 = true → c1 = c2

/-- R86: every read but that of ICCIAR changes nothing but the returned value, and every one of these but that of ICCHPIR
returns the same value at whatever step it is repeated. -/
def Obligations.ReadsHaveNoSideEffect : Prop :=
  ∀ (i : Instr) (s : State), i.dir = .rd → i ≠ .rdIcciar →
    ∃ w : Word, exec i s = .next { s with rdata := some w } ∧
      (i ≠ .rdIcchpir → ∀ (d : Nat) (r : Option Word),
        exec i { s with draws := d, rdata := r } = .next { s with draws := d, rdata := some w })

/-- R86: a second identical write of a set or clear array, or of an RW register, changes nothing, at whatever step it is
performed and whatever that step draws (for ICCBPR and ICCABPR, which draw, by the reading of log 23). -/
def Obligations.WritesAreIdempotent : Prop :=
  ∀ (s t : State) (k : Nat) (v : Word) (i : Instr) (d : Nat) (r : Option Word),
    i ∈ [.wrIcdiser k v, .wrIcdicer k v, .wrIcdispr k v, .wrIcdicpr k v, .wrIcdisr k v, .wrIcdipr k v, .wrIcdiptr k v,
      .wrIcdicfr k v, .wrIcddcr v, .wrIccicr v, .wrIccpmr v, .wrIccbpr v, .wrIccabpr v] →
    exec i s = .next t →
    exec i { t with draws := d, rdata := r } = .next { t with draws := d, rdata := r }

/-- R57, R82 and R342: no access reaches another CPU's interface or its PPIs, and only a send reaches its SGIs. -/
def Obligations.BankedStateIsPrivate : Prop :=
  ∀ (i : Instr) (s t : State) (c : CpuId), exec i s = .next t → c ≠ s.cpu →
    t.ifOf c = s.ifOf c ∧ (∀ n, 16 ≤ n → n < 32 → t.ppiOf c n = s.ppiOf c n) ∧
    ((∀ v, i ≠ .wrIcdsgir v) → ∀ n, n < 16 → t.sgiOf c n = s.sgiOf c n)

/-- R7, R46, R52, R57: no access that completes changes the parameters, an input level, the fault and refusal records,
the forwarding draws, what is still to reach the block, or anything of an ID at or above `MAXL`. -/
def Obligations.AccessesLeaveTheOutsideAlone : Prop :=
  ∀ (i : Instr) (s t : State), exec i s = .next t →
    t.par = s.par ∧ t.fault = s.fault ∧ t.refused = s.refused ∧ t.cpu = s.cpu ∧ t.draws = s.draws ∧ t.inbox = s.inbox ∧
    t.late = s.late ∧ t.ackRun = s.ackRun ∧ t.peekRun = s.peekRun ∧
    (∀ (c : CpuId) n, 16 ≤ n → n < 32 → (t.ppiOf c n).level = (s.ppiOf c n).level) ∧
    (∀ n, 32 ≤ n → (t.spiOf n).level = (s.spiOf n).level) ∧
    ∀ n, s.par.maxl ≤ n → t.spiOf n = s.spiOf n

/- The driver (spec/46) -/

/-- R265, R266 and R260: `enableLine` on an ID out of range, on an SGI, or on a 1:N SPI whose target mask is empty is an
error, and leaves the block's lines and interfaces as they were. -/
def Obligations.EnableLineRefusals : Prop :=
  ∀ (w : World) (self : CpuId) (n : Nat), w.hw.fault = none → w.hw.refused = false → w.soft.maxLines = w.hw.par.maxl →
    (w.hw.par.maxl ≤ n → (enableLine n).run self w = .finished (.error .invalidConfiguration) w) ∧
    (n < 16 → (enableLine n).run self w = .finished (.error .unsupportedOperation) w) ∧
    (32 ≤ n → n < w.hw.par.maxl → (w.hw.spiOf n).cfg.getLsbD 0 = true → (w.hw.spiOf n).tgt = 0 →
      ∃ w2 : World, (enableLine n).run self w = .finished (.error .invalidConfiguration) w2 ∧
        w2.hw.bank = w.hw.bank ∧ w2.hw.spi = w.hw.spi ∧ w2.hw.cpuIf = w.hw.cpuIf ∧
        w2.hw.dcrEn0 = w.hw.dcrEn0 ∧ w2.hw.dcrEn1 = w.hw.dcrEn1)

/-- R264 and R270: `setPriority` of an SPI, run with no other agent's step in between, stores the truncated priority of
that line and changes no other line. -/
def Obligations.SetPriorityTouchesOneLine : Prop :=
  ∀ (w : World) (self : CpuId) (n : Nat) (p : Byte), w.hw.fault = none → w.hw.refused = false → w.soft.lock = none →
    w.soft.maxLines = w.hw.par.maxl → w.hw.PrioritiesTruncated → 32 ≤ n → n < w.hw.par.maxl →
    ∃ w2 : World, (setPriority n p).run self w = .finished (.ok ()) w2 ∧ w2.soft = w.soft ∧
      w.hw.LinesBecome w2.hw
        (fun _ _ old new => new = old)
        (fun _ _ old new => new = old)
        (fun m old new => new = if m = n then { old with prio := p &&& 0xF0 } else old)

/-- R280, from the acknowledge on. A `dispatch` with no candidate calls no handler, logs nothing and writes no
end-of-interrupt. One whose acknowledge claims an interrupt without a handler logs it and ends it. One that has a handler
runs it to its end before it writes the end-of-interrupt, with the value the acknowledge returned; if the handler left
the active stack as it found it (as every `dispatch` nested in it does), that write is matched, and the stack is what it
was before the acknowledge. -/
def Obligations.DispatchOutcomes : Prop :=
  ∀ (w : World) (self : CpuId) (handlers : Handlers), w.hw.fault = none → w.hw.refused = false →
    let s := w.hw.start self .rdIcciar
    (s.cand self = [] →
      ∃ w2 : World, (dispatch handlers self).run self w = .finished (.ok ()) w2 ∧ w2.soft = w.soft ∧
        w2.issued = (self, .rdIcciar) :: w.issued) ∧
    ∀ (t : State) (e : Entry) (raw : Word), exec .rdIcciar s = .next t → (t.ifOf self).stk = e :: (s.ifOf self).stk →
      t.rdata = some raw → w.soft.tracking = false →
      (w.soft.handlerOf e.id = none →
        ∃ w2 : World, (dispatch handlers self).run self w = .finished (.ok ()) w2 ∧
          w2.issued = (self, .wrIcceoir raw) :: (self, .rdIcciar) :: w.issued ∧
          w2.soft = { w.soft with log := .noHandler (PendingClaim.ofRaw raw) :: w.soft.log } ∧
          (w2.hw.ifOf self).stk = (w.hw.ifOf self).stk) ∧
      (∀ (h : Nat) (w1 : World), w.soft.handlerOf e.id = some h →
        (handlers h (PendingClaim.ofRaw raw)).run self
          { hw := t
            soft := { w.soft with calls := (self, h, PendingClaim.ofRaw raw) :: w.soft.calls }
            issued := (self, .rdIcciar) :: w.issued } = .finished () w1 →
        w1.hw.fault = none → w1.hw.refused = false → w1.soft.tracking = false → (w1.hw.ifOf self).stk = (t.ifOf self).stk →
        ∃ w2 : World, (dispatch handlers self).run self w = .finished (.ok ()) w2 ∧
          w2.issued = (self, .wrIcceoir raw) :: w1.issued ∧ w2.soft = w1.soft ∧
          (w2.hw.ifOf self).stk = (w.hw.ifOf self).stk)
end

