-- ==== Sys2Proof/Laws/State.lean ====
section
/-! SUPPORT. Each field of the state after each named update of Machine/Ops.lean. -/

namespace Sys2Proof.Machine

variable (s : State)

@[simp] theorem State.ret_par (v : Word) : (s.ret v).par = s.par := rfl
@[simp] theorem State.ret_dcrEn0 (v : Word) : (s.ret v).dcrEn0 = s.dcrEn0 := rfl
@[simp] theorem State.ret_dcrEn1 (v : Word) : (s.ret v).dcrEn1 = s.dcrEn1 := rfl
@[simp] theorem State.ret_bank (v : Word) : (s.ret v).bank = s.bank := rfl
@[simp] theorem State.ret_spi (v : Word) : (s.ret v).spi = s.spi := rfl
@[simp] theorem State.ret_cpuIf (v : Word) : (s.ret v).cpuIf = s.cpuIf := rfl
@[simp] theorem State.ret_fault (v : Word) : (s.ret v).fault = s.fault := rfl
@[simp] theorem State.ret_refused (v : Word) : (s.ret v).refused = s.refused := rfl
@[simp] theorem State.ret_cpu (v : Word) : (s.ret v).cpu = s.cpu := rfl
@[simp] theorem State.ret_rdata (v : Word) : (s.ret v).rdata = some v := rfl
@[simp] theorem State.ret_draws (v : Word) : (s.ret v).draws = s.draws := rfl
@[simp] theorem State.ret_late (v : Word) : (s.ret v).late = s.late := rfl
@[simp] theorem State.ret_ackRun (v : Word) : (s.ret v).ackRun = s.ackRun := rfl
@[simp] theorem State.ret_peekRun (v : Word) : (s.ret v).peekRun = s.peekRun := rfl
@[simp] theorem State.ret_inbox (v : Word) : (s.ret v).inbox = s.inbox := rfl

@[simp] theorem State.begin_par (c : CpuId) : (s.begin c).par = s.par := rfl
@[simp] theorem State.begin_dcrEn0 (c : CpuId) : (s.begin c).dcrEn0 = s.dcrEn0 := rfl
@[simp] theorem State.begin_dcrEn1 (c : CpuId) : (s.begin c).dcrEn1 = s.dcrEn1 := rfl
@[simp] theorem State.begin_bank (c : CpuId) : (s.begin c).bank = s.bank := rfl
@[simp] theorem State.begin_spi (c : CpuId) : (s.begin c).spi = s.spi := rfl
@[simp] theorem State.begin_cpuIf (c : CpuId) : (s.begin c).cpuIf = s.cpuIf := rfl
@[simp] theorem State.begin_fault (c : CpuId) : (s.begin c).fault = s.fault := rfl
@[simp] theorem State.begin_refused (c : CpuId) : (s.begin c).refused = s.refused := rfl
@[simp] theorem State.begin_cpu (c : CpuId) : (s.begin c).cpu = c := rfl
@[simp] theorem State.begin_rdata (c : CpuId) : (s.begin c).rdata = none := rfl
@[simp] theorem State.begin_draws (c : CpuId) : (s.begin c).draws = s.draws + 1 := rfl
@[simp] theorem State.begin_late (c : CpuId) : (s.begin c).late = s.late := rfl
@[simp] theorem State.begin_ackRun (c : CpuId) : (s.begin c).ackRun = s.ackRun := rfl
@[simp] theorem State.begin_peekRun (c : CpuId) : (s.begin c).peekRun = s.peekRun := rfl
@[simp] theorem State.begin_inbox (c : CpuId) : (s.begin c).inbox = s.inbox := rfl

@[simp] theorem State.recordFault_par (f : Fault) : (s.recordFault f).par = s.par := rfl
@[simp] theorem State.recordFault_dcrEn0 (f : Fault) : (s.recordFault f).dcrEn0 = s.dcrEn0 := rfl
@[simp] theorem State.recordFault_dcrEn1 (f : Fault) : (s.recordFault f).dcrEn1 = s.dcrEn1 := rfl
@[simp] theorem State.recordFault_bank (f : Fault) : (s.recordFault f).bank = s.bank := rfl
@[simp] theorem State.recordFault_spi (f : Fault) : (s.recordFault f).spi = s.spi := rfl
@[simp] theorem State.recordFault_cpuIf (f : Fault) : (s.recordFault f).cpuIf = s.cpuIf := rfl
@[simp] theorem State.recordFault_fault (f : Fault) : (s.recordFault f).fault = some (s.fault.getD f) := rfl
@[simp] theorem State.recordFault_refused (f : Fault) : (s.recordFault f).refused = s.refused := rfl
@[simp] theorem State.recordFault_cpu (f : Fault) : (s.recordFault f).cpu = s.cpu := rfl
@[simp] theorem State.recordFault_rdata (f : Fault) : (s.recordFault f).rdata = s.rdata := rfl
@[simp] theorem State.recordFault_draws (f : Fault) : (s.recordFault f).draws = s.draws := rfl
@[simp] theorem State.recordFault_late (f : Fault) : (s.recordFault f).late = s.late := rfl
@[simp] theorem State.recordFault_ackRun (f : Fault) : (s.recordFault f).ackRun = s.ackRun := rfl
@[simp] theorem State.recordFault_peekRun (f : Fault) : (s.recordFault f).peekRun = s.peekRun := rfl
@[simp] theorem State.recordFault_inbox (f : Fault) : (s.recordFault f).inbox = s.inbox := rfl

@[simp] theorem State.recordRefusal_par : (s.recordRefusal).par = s.par := rfl
@[simp] theorem State.recordRefusal_dcrEn0 : (s.recordRefusal).dcrEn0 = s.dcrEn0 := rfl
@[simp] theorem State.recordRefusal_dcrEn1 : (s.recordRefusal).dcrEn1 = s.dcrEn1 := rfl
@[simp] theorem State.recordRefusal_bank : (s.recordRefusal).bank = s.bank := rfl
@[simp] theorem State.recordRefusal_spi : (s.recordRefusal).spi = s.spi := rfl
@[simp] theorem State.recordRefusal_cpuIf : (s.recordRefusal).cpuIf = s.cpuIf := rfl
@[simp] theorem State.recordRefusal_fault : (s.recordRefusal).fault = s.fault := rfl
@[simp] theorem State.recordRefusal_refused : (s.recordRefusal).refused = true := rfl
@[simp] theorem State.recordRefusal_cpu : (s.recordRefusal).cpu = s.cpu := rfl
@[simp] theorem State.recordRefusal_rdata : (s.recordRefusal).rdata = s.rdata := rfl
@[simp] theorem State.recordRefusal_draws : (s.recordRefusal).draws = s.draws := rfl
@[simp] theorem State.recordRefusal_late : (s.recordRefusal).late = s.late := rfl
@[simp] theorem State.recordRefusal_ackRun : (s.recordRefusal).ackRun = s.ackRun := rfl
@[simp] theorem State.recordRefusal_peekRun : (s.recordRefusal).peekRun = s.peekRun := rfl
@[simp] theorem State.recordRefusal_inbox : (s.recordRefusal).inbox = s.inbox := rfl

@[simp] theorem State.updSgis_par (f : CpuId → Nat → SgiLine → SgiLine) : (s.updSgis f).par = s.par := rfl
@[simp] theorem State.updSgis_dcrEn0 (f : CpuId → Nat → SgiLine → SgiLine) : (s.updSgis f).dcrEn0 = s.dcrEn0 := rfl
@[simp] theorem State.updSgis_dcrEn1 (f : CpuId → Nat → SgiLine → SgiLine) : (s.updSgis f).dcrEn1 = s.dcrEn1 := rfl
@[simp] theorem State.updSgis_spi (f : CpuId → Nat → SgiLine → SgiLine) : (s.updSgis f).spi = s.spi := rfl
@[simp] theorem State.updSgis_cpuIf (f : CpuId → Nat → SgiLine → SgiLine) : (s.updSgis f).cpuIf = s.cpuIf := rfl
@[simp] theorem State.updSgis_fault (f : CpuId → Nat → SgiLine → SgiLine) : (s.updSgis f).fault = s.fault := rfl
@[simp] theorem State.updSgis_refused (f : CpuId → Nat → SgiLine → SgiLine) : (s.updSgis f).refused = s.refused := rfl
@[simp] theorem State.updSgis_cpu (f : CpuId → Nat → SgiLine → SgiLine) : (s.updSgis f).cpu = s.cpu := rfl
@[simp] theorem State.updSgis_rdata (f : CpuId → Nat → SgiLine → SgiLine) : (s.updSgis f).rdata = s.rdata := rfl
@[simp] theorem State.updSgis_draws (f : CpuId → Nat → SgiLine → SgiLine) : (s.updSgis f).draws = s.draws := rfl
@[simp] theorem State.updSgis_late (f : CpuId → Nat → SgiLine → SgiLine) : (s.updSgis f).late = s.late := rfl
@[simp] theorem State.updSgis_ackRun (f : CpuId → Nat → SgiLine → SgiLine) : (s.updSgis f).ackRun = s.ackRun := rfl
@[simp] theorem State.updSgis_peekRun (f : CpuId → Nat → SgiLine → SgiLine) : (s.updSgis f).peekRun = s.peekRun := rfl
@[simp] theorem State.updSgis_inbox (f : CpuId → Nat → SgiLine → SgiLine) : (s.updSgis f).inbox = s.inbox := rfl

@[simp] theorem State.updSgi_par (c : CpuId) (f : Nat → SgiLine → SgiLine) : (s.updSgi c f).par = s.par := rfl
@[simp] theorem State.updSgi_dcrEn0 (c : CpuId) (f : Nat → SgiLine → SgiLine) : (s.updSgi c f).dcrEn0 = s.dcrEn0 := rfl
@[simp] theorem State.updSgi_dcrEn1 (c : CpuId) (f : Nat → SgiLine → SgiLine) : (s.updSgi c f).dcrEn1 = s.dcrEn1 := rfl
@[simp] theorem State.updSgi_spi (c : CpuId) (f : Nat → SgiLine → SgiLine) : (s.updSgi c f).spi = s.spi := rfl
@[simp] theorem State.updSgi_cpuIf (c : CpuId) (f : Nat → SgiLine → SgiLine) : (s.updSgi c f).cpuIf = s.cpuIf := rfl
@[simp] theorem State.updSgi_fault (c : CpuId) (f : Nat → SgiLine → SgiLine) : (s.updSgi c f).fault = s.fault := rfl
@[simp] theorem State.updSgi_refused (c : CpuId) (f : Nat → SgiLine → SgiLine) : (s.updSgi c f).refused = s.refused := rfl
@[simp] theorem State.updSgi_cpu (c : CpuId) (f : Nat → SgiLine → SgiLine) : (s.updSgi c f).cpu = s.cpu := rfl
@[simp] theorem State.updSgi_rdata (c : CpuId) (f : Nat → SgiLine → SgiLine) : (s.updSgi c f).rdata = s.rdata := rfl
@[simp] theorem State.updSgi_draws (c : CpuId) (f : Nat → SgiLine → SgiLine) : (s.updSgi c f).draws = s.draws := rfl
@[simp] theorem State.updSgi_late (c : CpuId) (f : Nat → SgiLine → SgiLine) : (s.updSgi c f).late = s.late := rfl
@[simp] theorem State.updSgi_ackRun (c : CpuId) (f : Nat → SgiLine → SgiLine) : (s.updSgi c f).ackRun = s.ackRun := rfl
@[simp] theorem State.updSgi_peekRun (c : CpuId) (f : Nat → SgiLine → SgiLine) : (s.updSgi c f).peekRun = s.peekRun := rfl
@[simp] theorem State.updSgi_inbox (c : CpuId) (f : Nat → SgiLine → SgiLine) : (s.updSgi c f).inbox = s.inbox := rfl

@[simp] theorem State.updPpi_par (c : CpuId) (f : Nat → PpiLine → PpiLine) : (s.updPpi c f).par = s.par := rfl
@[simp] theorem State.updPpi_dcrEn0 (c : CpuId) (f : Nat → PpiLine → PpiLine) : (s.updPpi c f).dcrEn0 = s.dcrEn0 := rfl
@[simp] theorem State.updPpi_dcrEn1 (c : CpuId) (f : Nat → PpiLine → PpiLine) : (s.updPpi c f).dcrEn1 = s.dcrEn1 := rfl
@[simp] theorem State.updPpi_spi (c : CpuId) (f : Nat → PpiLine → PpiLine) : (s.updPpi c f).spi = s.spi := rfl
@[simp] theorem State.updPpi_cpuIf (c : CpuId) (f : Nat → PpiLine → PpiLine) : (s.updPpi c f).cpuIf = s.cpuIf := rfl
@[simp] theorem State.updPpi_fault (c : CpuId) (f : Nat → PpiLine → PpiLine) : (s.updPpi c f).fault = s.fault := rfl
@[simp] theorem State.updPpi_refused (c : CpuId) (f : Nat → PpiLine → PpiLine) : (s.updPpi c f).refused = s.refused := rfl
@[simp] theorem State.updPpi_cpu (c : CpuId) (f : Nat → PpiLine → PpiLine) : (s.updPpi c f).cpu = s.cpu := rfl
@[simp] theorem State.updPpi_rdata (c : CpuId) (f : Nat → PpiLine → PpiLine) : (s.updPpi c f).rdata = s.rdata := rfl
@[simp] theorem State.updPpi_draws (c : CpuId) (f : Nat → PpiLine → PpiLine) : (s.updPpi c f).draws = s.draws := rfl
@[simp] theorem State.updPpi_late (c : CpuId) (f : Nat → PpiLine → PpiLine) : (s.updPpi c f).late = s.late := rfl
@[simp] theorem State.updPpi_ackRun (c : CpuId) (f : Nat → PpiLine → PpiLine) : (s.updPpi c f).ackRun = s.ackRun := rfl
@[simp] theorem State.updPpi_peekRun (c : CpuId) (f : Nat → PpiLine → PpiLine) : (s.updPpi c f).peekRun = s.peekRun := rfl
@[simp] theorem State.updPpi_inbox (c : CpuId) (f : Nat → PpiLine → PpiLine) : (s.updPpi c f).inbox = s.inbox := rfl

@[simp] theorem State.updSpi_par (f : Nat → SpiLine → SpiLine) : (s.updSpi f).par = s.par := rfl
@[simp] theorem State.updSpi_dcrEn0 (f : Nat → SpiLine → SpiLine) : (s.updSpi f).dcrEn0 = s.dcrEn0 := rfl
@[simp] theorem State.updSpi_dcrEn1 (f : Nat → SpiLine → SpiLine) : (s.updSpi f).dcrEn1 = s.dcrEn1 := rfl
@[simp] theorem State.updSpi_bank (f : Nat → SpiLine → SpiLine) : (s.updSpi f).bank = s.bank := rfl
@[simp] theorem State.updSpi_cpuIf (f : Nat → SpiLine → SpiLine) : (s.updSpi f).cpuIf = s.cpuIf := rfl
@[simp] theorem State.updSpi_fault (f : Nat → SpiLine → SpiLine) : (s.updSpi f).fault = s.fault := rfl
@[simp] theorem State.updSpi_refused (f : Nat → SpiLine → SpiLine) : (s.updSpi f).refused = s.refused := rfl
@[simp] theorem State.updSpi_cpu (f : Nat → SpiLine → SpiLine) : (s.updSpi f).cpu = s.cpu := rfl
@[simp] theorem State.updSpi_rdata (f : Nat → SpiLine → SpiLine) : (s.updSpi f).rdata = s.rdata := rfl
@[simp] theorem State.updSpi_draws (f : Nat → SpiLine → SpiLine) : (s.updSpi f).draws = s.draws := rfl
@[simp] theorem State.updSpi_late (f : Nat → SpiLine → SpiLine) : (s.updSpi f).late = s.late := rfl
@[simp] theorem State.updSpi_ackRun (f : Nat → SpiLine → SpiLine) : (s.updSpi f).ackRun = s.ackRun := rfl
@[simp] theorem State.updSpi_peekRun (f : Nat → SpiLine → SpiLine) : (s.updSpi f).peekRun = s.peekRun := rfl
@[simp] theorem State.updSpi_inbox (f : Nat → SpiLine → SpiLine) : (s.updSpi f).inbox = s.inbox := rfl

@[simp] theorem State.updIf_par (c : CpuId) (f : CpuIf → CpuIf) : (s.updIf c f).par = s.par := rfl
@[simp] theorem State.updIf_dcrEn0 (c : CpuId) (f : CpuIf → CpuIf) : (s.updIf c f).dcrEn0 = s.dcrEn0 := rfl
@[simp] theorem State.updIf_dcrEn1 (c : CpuId) (f : CpuIf → CpuIf) : (s.updIf c f).dcrEn1 = s.dcrEn1 := rfl
@[simp] theorem State.updIf_bank (c : CpuId) (f : CpuIf → CpuIf) : (s.updIf c f).bank = s.bank := rfl
@[simp] theorem State.updIf_spi (c : CpuId) (f : CpuIf → CpuIf) : (s.updIf c f).spi = s.spi := rfl
@[simp] theorem State.updIf_fault (c : CpuId) (f : CpuIf → CpuIf) : (s.updIf c f).fault = s.fault := rfl
@[simp] theorem State.updIf_refused (c : CpuId) (f : CpuIf → CpuIf) : (s.updIf c f).refused = s.refused := rfl
@[simp] theorem State.updIf_cpu (c : CpuId) (f : CpuIf → CpuIf) : (s.updIf c f).cpu = s.cpu := rfl
@[simp] theorem State.updIf_rdata (c : CpuId) (f : CpuIf → CpuIf) : (s.updIf c f).rdata = s.rdata := rfl
@[simp] theorem State.updIf_draws (c : CpuId) (f : CpuIf → CpuIf) : (s.updIf c f).draws = s.draws := rfl
@[simp] theorem State.updIf_late (c : CpuId) (f : CpuIf → CpuIf) : (s.updIf c f).late = s.late := rfl
@[simp] theorem State.updIf_ackRun (c : CpuId) (f : CpuIf → CpuIf) : (s.updIf c f).ackRun = s.ackRun := rfl
@[simp] theorem State.updIf_peekRun (c : CpuId) (f : CpuIf → CpuIf) : (s.updIf c f).peekRun = s.peekRun := rfl
@[simp] theorem State.updIf_inbox (c : CpuId) (f : CpuIf → CpuIf) : (s.updIf c f).inbox = s.inbox := rfl

end Sys2Proof.Machine
end

