-- ==== Sys2Proof/Laws/Tab.lean ====
section
/-! SUPPORT. What tables hold after an update (Machine/Tab.lean). -/

namespace Sys2Proof.Machine

variable {α : Type} {k : Nat}

theorem updateFrom_getElem? (f : Nat → α → α) (i : Nat) (l : List α) (j : Nat) :
    (updateFrom f i l)[j]? = l[j]?.map (f (i + j)) := by
  induction l generalizing i j with
  | nil => simp [updateFrom]
  | cons x xs ih =>
    cases j with
    | zero => simp [updateFrom]
    | succ j => simp [updateFrom, ih, Nat.add_assoc, Nat.add_comm 1 j]

theorem tabUpdate_getElem (f : Nat → α → α) (v : Vector α k) (i : Nat) (h : i < k) :
    (tabUpdate f v)[i] = f i v[i] := by
  have h1 := updateFrom_getElem? f 0 v.toList i
  rw [Nat.zero_add] at h1
  have h2 : (tabUpdate f v)[i]? = v[i]?.map (f i) := by
    simpa [tabUpdate] using h1
  simpa [h] using h2

/-- A table update, entry by entry. -/
theorem tabGet_tabUpdate (f : Nat → α → α) (v : Vector α k) (d : α) (i : Nat) (h : i < k) :
    tabGet (tabUpdate f v) d i = f i (tabGet v d i) := by
  simp [tabGet, h, tabUpdate_getElem]

theorem tabGet_of_le (v : Vector α k) (d : α) (i : Nat) (h : k ≤ i) : tabGet v d i = d := by
  simp [tabGet, Nat.not_lt.mpr h]

theorem tabGet_of_lt (v : Vector α k) (d : α) (i : Nat) (h : i < k) : tabGet v d i = v[i] := by
  simp [tabGet, h]

@[simp] theorem tabGet_replicate (x : α) (i : Nat) : tabGet (Vector.replicate k x) x i = x := by
  simp [tabGet]

theorem tabGet_tabOf (f : Nat → α) (d : α) (i : Nat) (h : i < k) : tabGet (tabOf k f) d i = f i := by
  simp [tabOf, tabGet_tabUpdate, h]

theorem tabOf_getElem (f : Nat → α) (i : Nat) (h : i < k) : (tabOf k f)[i] = f i := by
  simp [tabOf, tabUpdate_getElem]

theorem tabSet_getElem (v : Vector α k) (i : Nat) (x : α) (j : Nat) (h : j < k) :
    (tabSet v i x)[j] = if j = i then x else v[j] := by
  simp [tabSet, tabUpdate_getElem]

@[simp] theorem tabSet_cpu (v : Vector α 8) (c : CpuId) (x : α) (c2 : CpuId) :
    (tabSet v c.val x)[c2.val] = if c2 = c then x else v[c2.val] := by
  simp [tabSet_getElem, Fin.ext_iff]

@[simp] theorem tabUpdate_cpu (f : Nat → α → α) (v : Vector α 8) (c : CpuId) :
    (tabUpdate f v)[c.val] = f c.val v[c.val] := by
  simp [tabUpdate_getElem]

@[simp] theorem tabOf_cpu (f : Nat → α) (c : CpuId) : (tabOf 8 f)[c.val] = f c.val := by
  simp [tabOf_getElem]

/-- A per-CPU update, entry by entry. -/
@[simp] theorem perCpu_getElem (f : CpuId → α → α) (v : Vector α 8) (c : CpuId) :
    (perCpu f v)[c.val] = f c v[c.val] := by
  fin_cases c <;> rfl

/-- Two tables with the same entries are the same. -/
theorem tab_ext (u v : Vector α k) (d : α) (h : ∀ i, i < k → tabGet u d i = tabGet v d i) : u = v := by
  apply Vector.ext
  intro i hi
  simpa [tabGet, hi] using h i hi

theorem tab_ext_cpu (u v : Vector α 8) (h : ∀ c : CpuId, u[c.val] = v[c.val]) : u = v := by
  apply Vector.ext
  intro i hi
  exact h ⟨i, hi⟩

end Sys2Proof.Machine
end

