-- ==== Sys2Proof/Laws/Lines.lean ====
section
/-! SUPPORT. What the line and interface updates of Machine/Ops.lean do to every line and every interface. -/

namespace Sys2Proof.Machine

variable (s : State)

/-- An update of all SGIs, line by line. -/
theorem State.sgiOf_updSgis (f : CpuId → Nat → SgiLine → SgiLine) (c : CpuId) (n : Nat) (h : n < 16) :
    (s.updSgis f).sgiOf c n = f c n (s.sgiOf c n) := by
  simp [State.sgiOf, State.updSgis, tabGet_tabUpdate, h]

/-- An update of one CPU's SGIs, line by line. -/
theorem State.sgiOf_updSgi (c : CpuId) (f : Nat → SgiLine → SgiLine) (c2 : CpuId) (n : Nat) (h : n < 16) :
    (s.updSgi c f).sgiOf c2 n = if c2 = c then f n (s.sgiOf c2 n) else s.sgiOf c2 n := by
  simp [State.updSgi, State.sgiOf_updSgis, h]

@[simp] theorem State.ppiOf_updSgis (f : CpuId → Nat → SgiLine → SgiLine) (c : CpuId) (n : Nat) :
    (s.updSgis f).ppiOf c n = s.ppiOf c n := by
  simp [State.ppiOf, State.updSgis]

@[simp] theorem State.ppiOf_updSgi (c : CpuId) (f : Nat → SgiLine → SgiLine) (c2 : CpuId) (n : Nat) :
    (s.updSgi c f).ppiOf c2 n = s.ppiOf c2 n := by
  simp [State.updSgi]

@[simp] theorem State.spiOf_updSgis (f : CpuId → Nat → SgiLine → SgiLine) (n : Nat) :
    (s.updSgis f).spiOf n = s.spiOf n := rfl

@[simp] theorem State.spiOf_updSgi (c : CpuId) (f : Nat → SgiLine → SgiLine) (n : Nat) :
    (s.updSgi c f).spiOf n = s.spiOf n := rfl

@[simp] theorem State.ifOf_updSgis (f : CpuId → Nat → SgiLine → SgiLine) (c : CpuId) :
    (s.updSgis f).ifOf c = s.ifOf c := rfl

@[simp] theorem State.ifOf_updSgi (c : CpuId) (f : Nat → SgiLine → SgiLine) (c2 : CpuId) :
    (s.updSgi c f).ifOf c2 = s.ifOf c2 := rfl

/-- An update of one CPU's PPIs, line by line. -/
theorem State.ppiOf_updPpi (c : CpuId) (f : Nat → PpiLine → PpiLine) (c2 : CpuId) (n : Nat) (h1 : 16 ≤ n) (h2 : n < 32) :
    (s.updPpi c f).ppiOf c2 n = if c2 = c then f n (s.ppiOf c2 n) else s.ppiOf c2 n := by
  have h3 : n - 16 < 16 := by omega
  have h4 : n - 16 + 16 = n := by omega
  by_cases hc : c2 = c
  · subst hc
    simp [State.ppiOf, State.updPpi, Bank.updPpi, tabGet_tabUpdate, h3, h4]
  · simp [State.ppiOf, State.updPpi, hc]

@[simp] theorem State.sgiOf_updPpi (c : CpuId) (f : Nat → PpiLine → PpiLine) (c2 : CpuId) (n : Nat) :
    (s.updPpi c f).sgiOf c2 n = s.sgiOf c2 n := by
  by_cases hc : c2 = c
  · subst hc
    simp [State.sgiOf, State.updPpi, Bank.updPpi]
  · simp [State.sgiOf, State.updPpi, hc]

@[simp] theorem State.spiOf_updPpi (c : CpuId) (f : Nat → PpiLine → PpiLine) (n : Nat) :
    (s.updPpi c f).spiOf n = s.spiOf n := rfl

@[simp] theorem State.ifOf_updPpi (c : CpuId) (f : Nat → PpiLine → PpiLine) (c2 : CpuId) :
    (s.updPpi c f).ifOf c2 = s.ifOf c2 := rfl

theorem maxl_bounds (p : Params) : 32 ≤ p.maxl ∧ p.maxl ≤ 256 := by
  have := p.itl.isLt
  unfold Params.maxl
  omega

/-- An update of the SPIs, line by line: those at or above `MAXL` are never touched. -/
theorem State.spiOf_updSpi (f : Nat → SpiLine → SpiLine) (n : Nat) (h : 32 ≤ n) :
    (s.updSpi f).spiOf n = if n < s.par.maxl then f n (s.spiOf n) else s.spiOf n := by
  have hm := maxl_bounds s.par
  have h4 : n - 32 + 32 = n := by omega
  by_cases hn : n < 256
  · have h3 : n - 32 < 224 := by omega
    simp [State.spiOf, State.updSpi, tabGet_tabUpdate, h3, h4]
  · have h3 : 224 ≤ n - 32 := by omega
    have h5 : ¬ n < s.par.maxl := by omega
    simp [State.spiOf, tabGet_of_le _ _ _ h3, h5]

@[simp] theorem State.sgiOf_updSpi (f : Nat → SpiLine → SpiLine) (c : CpuId) (n : Nat) :
    (s.updSpi f).sgiOf c n = s.sgiOf c n := rfl

@[simp] theorem State.ppiOf_updSpi (f : Nat → SpiLine → SpiLine) (c : CpuId) (n : Nat) :
    (s.updSpi f).ppiOf c n = s.ppiOf c n := rfl

@[simp] theorem State.ifOf_updSpi (f : Nat → SpiLine → SpiLine) (c : CpuId) :
    (s.updSpi f).ifOf c = s.ifOf c := rfl

/-- An update of one CPU interface. -/
@[simp] theorem State.ifOf_updIf (c : CpuId) (f : CpuIf → CpuIf) (c2 : CpuId) :
    (s.updIf c f).ifOf c2 = if c2 = c then f (s.ifOf c2) else s.ifOf c2 := by
  simp [State.ifOf, State.updIf]

@[simp] theorem State.sgiOf_updIf (c : CpuId) (f : CpuIf → CpuIf) (c2 : CpuId) (n : Nat) :
    (s.updIf c f).sgiOf c2 n = s.sgiOf c2 n := rfl

@[simp] theorem State.ppiOf_updIf (c : CpuId) (f : CpuIf → CpuIf) (c2 : CpuId) (n : Nat) :
    (s.updIf c f).ppiOf c2 n = s.ppiOf c2 n := rfl

@[simp] theorem State.spiOf_updIf (c : CpuId) (f : CpuIf → CpuIf) (n : Nat) :
    (s.updIf c f).spiOf n = s.spiOf n := rfl

end Sys2Proof.Machine
end

