-- ==== Sys2Proof/Laws/Arbiter.lean ====
section
/-! SUPPORT. What the arbiter's functions give (Machine/Arbiter.lean): membership of the candidates, the least priority,
the encoder's choice, and what a claim and a release do line by line. -/

namespace Sys2Proof.Machine

variable (s : State)

/-- R311: the candidates of a CPU. -/
theorem State.mem_cand (c : CpuId) (e : Entry) :
    e ∈ s.cand c ↔ e.id < s.par.maxl ∧ e.src ∈ s.sourcesOf e.id ∧ s.isCand c e.id e.src = true ∧ e.prio = s.prio c e.id := by
  unfold State.cand
  simp only [List.mem_flatMap, List.mem_range, List.mem_map, List.mem_filter]
  constructor
  · rintro ⟨n, hn, src, ⟨h1, h2⟩, rfl⟩
    exact ⟨hn, h1, h2, rfl⟩
  · rintro ⟨h1, h2, h3, h4⟩
    refine ⟨e.id, h1, e.src, ⟨h2, h3⟩, ?_⟩
    cases e
    simp_all

/-- The least priority is one of the list's, and none of the list's is less. -/
theorem minPrio_spec (es : List Entry) :
    (minPrio es = none ↔ es = []) ∧
    ∀ p, minPrio es = some p → (∃ e ∈ es, e.prio = p) ∧ ∀ e ∈ es, p ≤ e.prio := by
  induction es with
  | nil => simp [minPrio]
  | cons e es ih =>
    unfold minPrio
    cases h : minPrio es with
    | none =>
      have h0 := ih.1.mp h
      subst h0
      simp
    | some q =>
      obtain ⟨⟨e1, he1, hq⟩, hall⟩ := ih.2 q h
      refine ⟨by simp, ?_⟩
      simp only [Option.some.injEq]
      rintro p rfl
      by_cases hlt : e.prio < q
      · simp only [hlt, if_true]
        refine ⟨⟨e, by simp, rfl⟩, ?_⟩
        intro x hx
        rcases List.mem_cons.mp hx with rfl | hx
        · exact BitVec.le_refl _
        · have := hall x hx
          rw [BitVec.le_def] at this ⊢
          rw [BitVec.lt_def] at hlt
          omega
      · simp only [hlt, if_false]
        refine ⟨⟨e1, by simp [he1], hq⟩, ?_⟩
        intro x hx
        rcases List.mem_cons.mp hx with rfl | hx
        · rw [BitVec.lt_def] at hlt
          rw [BitVec.le_def]
          omega
        · exact hall x hx

/-- The instances of the least priority value. -/
theorem mem_leastOf (es : List Entry) (e : Entry) :
    e ∈ leastOf es ↔ e ∈ es ∧ ∀ x ∈ es, e.prio ≤ x.prio := by
  unfold leastOf
  simp only [List.mem_filter, beq_iff_eq, and_congr_right_iff]
  intro he
  have spec := minPrio_spec es
  constructor
  · intro h
    exact (spec.2 _ h).2
  · intro h
    cases hm : minPrio es with
    | none => rw [spec.1.mp hm] at he; simp at he
    | some p =>
      obtain ⟨⟨x, hx, hxp⟩, hall⟩ := spec.2 p hm
      have h1 := hall e he
      have h2 := h x hx
      rw [hxp] at h2
      rw [BitVec.le_antisymm h1 h2]

/-- R314: what the encoder picks is a candidate of the least priority value. -/
theorem State.hppi_mem (c : CpuId) (tie : Nat) (e : Entry) (h : s.hppi c tie = some e) :
    e ∈ s.cand c ∧ ∀ x ∈ s.cand c, e.prio ≤ x.prio := by
  unfold State.hppi at h
  exact (mem_leastOf _ _).mp (List.mem_of_getElem? h)

/-- R314: with no candidate the encoder picks none, and otherwise some. -/
theorem State.hppi_eq_none (c : CpuId) (tie : Nat) : s.hppi c tie = none ↔ s.cand c = [] := by
  unfold State.hppi
  rw [List.getElem?_eq_none_iff]
  constructor
  · intro h
    by_contra hne
    have hl : leastOf (s.cand c) ≠ [] := by
      intro h0
      have spec := minPrio_spec (s.cand c)
      cases hm : minPrio (s.cand c) with
      | none => exact hne (spec.1.mp hm)
      | some p =>
        obtain ⟨⟨x, hx, hxp⟩, hall⟩ := spec.2 p hm
        have : x ∈ leastOf (s.cand c) := (mem_leastOf _ _).mpr ⟨hx, fun y hy => hxp ▸ hall y hy⟩
        rw [h0] at this
        simp at this
    have := Nat.mod_lt tie (List.length_pos_iff.mpr hl)
    omega
  · intro h
    simp [h, leastOf]

@[simp] theorem State.claimLine_ifOf (c : CpuId) (e : Entry) (c2 : CpuId) : (s.claimLine c e).ifOf c2 = s.ifOf c2 := by
  unfold State.claimLine
  split <;> [rfl; split <;> rfl]

@[simp] theorem State.releaseLine_ifOf (c : CpuId) (e : Entry) (c2 : CpuId) :
    (s.releaseLine c e).ifOf c2 = s.ifOf c2 := by
  unfold State.releaseLine
  split <;> [rfl; split <;> rfl]

@[simp] theorem State.claimLine_par (c : CpuId) (e : Entry) : (s.claimLine c e).par = s.par := by
  unfold State.claimLine
  split <;> [rfl; split <;> rfl]

@[simp] theorem State.releaseLine_par (c : CpuId) (e : Entry) : (s.releaseLine c e).par = s.par := by
  unfold State.releaseLine
  split <;> [rfl; split <;> rfl]

/-- R307: the stack after a claim. -/
theorem State.claim_stk (c : CpuId) (e : Entry) (c2 : CpuId) :
    ((s.claim c e).ifOf c2).stk = if c2 = c then e :: (s.ifOf c2).stk else (s.ifOf c2).stk := by
  simp only [State.claim, State.ifOf_updIf, State.claimLine_ifOf]
  split <;> rfl

/-- R308: the stack after a release. -/
theorem State.release_stk (c : CpuId) (e : Entry) (c2 : CpuId) :
    ((s.release c e).ifOf c2).stk = if c2 = c then (s.ifOf c2).stk.tail else (s.ifOf c2).stk := by
  simp only [State.release, State.ifOf_updIf, State.releaseLine_ifOf]
  split <;> rfl

/-- R307: the lines after a claim: the claimed one alone is changed. -/
theorem State.claimLine_lines (c : CpuId) (e : Entry) :
    (∀ c2 n, n < 16 → (s.claimLine c e).sgiOf c2 n =
      if c2 = c ∧ n = e.id then (s.sgiOf c2 n).claimed e.src else s.sgiOf c2 n) ∧
    (∀ c2 n, 16 ≤ n → n < 32 → (s.claimLine c e).ppiOf c2 n =
      if c2 = c ∧ n = e.id then (s.ppiOf c2 n).claimed else s.ppiOf c2 n) ∧
    (∀ n, 32 ≤ n → (s.claimLine c e).spiOf n =
      if n < s.par.maxl ∧ n = e.id then (s.spiOf n).claimed c else s.spiOf n) := by
  unfold State.claimLine
  by_cases h1 : e.id < 16
  · simp only [h1, if_true, State.ppiOf_updSgi, State.spiOf_updSgi]
    refine ⟨?_, ?_, ?_⟩
    · intro c2 n hn
      rw [State.sgiOf_updSgi s c _ c2 n hn]
      by_cases hc : c2 = c <;> simp [hc]
    · intro c2 n hn _
      rw [if_neg (by omega)]
    · intro n hn
      rw [if_neg (by omega)]
  · by_cases h2 : e.id < 32
    · simp only [h1, h2, if_true, if_false, State.sgiOf_updPpi, State.spiOf_updPpi]
      refine ⟨?_, ?_, ?_⟩
      · intro c2 n hn
        rw [if_neg (by omega)]
      · intro c2 n hn hn2
        rw [State.ppiOf_updPpi s c _ c2 n hn hn2]
        by_cases hc : c2 = c <;> simp [hc]
      · intro n hn
        rw [if_neg (by omega)]
    · simp only [h1, h2, if_false, State.sgiOf_updSpi, State.ppiOf_updSpi]
      refine ⟨?_, ?_, ?_⟩
      · intro c2 n hn
        rw [if_neg (by omega)]
      · intro c2 n hn hn2
        rw [if_neg (by omega)]
      · intro n hn
        rw [State.spiOf_updSpi s _ n hn]
        by_cases hm : n < s.par.maxl <;> simp [hm]

/-- R308: the lines after a release: the released one alone is changed. -/
theorem State.releaseLine_lines (c : CpuId) (e : Entry) :
    (∀ c2 n, n < 16 → (s.releaseLine c e).sgiOf c2 n =
      if c2 = c ∧ n = e.id then { s.sgiOf c2 n with act := none } else s.sgiOf c2 n) ∧
    (∀ c2 n, 16 ≤ n → n < 32 → (s.releaseLine c e).ppiOf c2 n =
      if c2 = c ∧ n = e.id then { s.ppiOf c2 n with act := false } else s.ppiOf c2 n) ∧
    (∀ n, 32 ≤ n → (s.releaseLine c e).spiOf n =
      if n < s.par.maxl ∧ n = e.id then (s.spiOf n).released c else s.spiOf n) := by
  unfold State.releaseLine
  by_cases h1 : e.id < 16
  · simp only [h1, if_true, State.ppiOf_updSgi, State.spiOf_updSgi]
    refine ⟨?_, ?_, ?_⟩
    · intro c2 n hn
      rw [State.sgiOf_updSgi s c _ c2 n hn]
      by_cases hc : c2 = c <;> simp [hc]
    · intro c2 n hn _
      rw [if_neg (by omega)]
    · intro n hn
      rw [if_neg (by omega)]
  · by_cases h2 : e.id < 32
    · simp only [h1, h2, if_true, if_false, State.sgiOf_updPpi, State.spiOf_updPpi]
      refine ⟨?_, ?_, ?_⟩
      · intro c2 n hn
        rw [if_neg (by omega)]
      · intro c2 n hn hn2
        rw [State.ppiOf_updPpi s c _ c2 n hn hn2]
        by_cases hc : c2 = c <;> simp [hc]
      · intro n hn
        rw [if_neg (by omega)]
    · simp only [h1, h2, if_false, State.sgiOf_updSpi, State.ppiOf_updSpi]
      refine ⟨?_, ?_, ?_⟩
      · intro c2 n hn
        rw [if_neg (by omega)]
      · intro c2 n hn hn2
        rw [if_neg (by omega)]
      · intro n hn
        rw [State.spiOf_updSpi s _ n hn]
        by_cases hm : n < s.par.maxl <;> simp [hm]

end Sys2Proof.Machine
end

