-- ==== Sys2Proof/Laws/CpuInterface.lean ====
section
/-! SUPPORT. The binary point registers: what a write stores, and that the same write again changes nothing
(Machine/CpuInterface.lean). -/

namespace Sys2Proof.Machine

/-- Whether the stored value is the minimum is all the draw there was. -/
theorem storedBinaryPoint_again (least : BitVec 3) (raise : Bool) (b : BitVec 3) :
    storedBinaryPoint least (decide (storedBinaryPoint least raise b = least)) b = storedBinaryPoint least raise b := by
  unfold storedBinaryPoint
  by_cases h : b < least ∧ raise = true
  · simp [h]
  · rw [if_neg h]
    split
    · rename_i h2
      exact (of_decide_eq_true h2.2).symm
    · rfl

/-- R86: the same write of ICCBPR again, under any draw. -/
theorem CpuIf.writeBpr_again (i : CpuIf) (raise raise2 : Bool) (b : BitVec 3) :
    (i.writeBpr raise b).writeBpr raise2 b = i.writeBpr raise b := by
  simp only [CpuIf.writeBpr, standingDraw, if_true]
  congr 1
  exact storedBinaryPoint_again _ _ _

/-- R86: the same write of ICCABPR again, under any draw. -/
theorem CpuIf.writeAbpr_again (i : CpuIf) (raise raise2 : Bool) (b : BitVec 3) :
    (i.writeAbpr raise b).writeAbpr raise2 b = i.writeAbpr raise b := by
  simp only [CpuIf.writeAbpr, standingDraw, if_true]
  congr 1
  exact storedBinaryPoint_again _ _ _

/-- R238: what a write of ICCBPR leaves in the writer's interface. -/
theorem State.writeBpr_ifOf (s : State) (raise : Bool) (v : Word) :
    (s.writeBpr raise v).ifOf s.cpu = (s.ifOf s.cpu).writeBpr raise (binaryPointField v) := by
  simp [State.writeBpr]

/-- R245: what a write of ICCABPR leaves in the writer's interface. -/
theorem State.writeAbpr_ifOf (s : State) (raise : Bool) (v : Word) :
    (s.writeAbpr raise v).ifOf s.cpu = (s.ifOf s.cpu).writeAbpr raise (binaryPointField v) := by
  simp [State.writeAbpr]

end Sys2Proof.Machine
end

