-- ==== Sys2Proof/Laws/Forwarding.lean ====
section
/-! SUPPORT. What the forwarding draw leaves alone, and when a run of late answers goes on (Machine/Forwarding.lean). -/

namespace Sys2Proof.Machine

variable (s : State)

/-- The forwarding draw changes its own three fields only. -/
theorem State.forward_eq (i : Instr) :
    s.forward i = { s with
      late := (s.forward i).late, ackRun := (s.forward i).ackRun, peekRun := (s.forward i).peekRun } := by
  unfold State.forward
  split
  · rfl
  · split <;> rfl

/-- An access that is neither the acknowledge nor the highest-pending read draws nothing. -/
theorem State.forward_other (i : Instr) (h1 : i ≠ .rdIcciar) (h2 : i ≠ .rdIcchpir) : s.forward i = s := by
  simp [State.forward, h1, h2]

@[simp] theorem State.forward_par (i : Instr) : (s.forward i).par = s.par := by rw [s.forward_eq i]
@[simp] theorem State.forward_dcrEn0 (i : Instr) : (s.forward i).dcrEn0 = s.dcrEn0 := by rw [s.forward_eq i]
@[simp] theorem State.forward_dcrEn1 (i : Instr) : (s.forward i).dcrEn1 = s.dcrEn1 := by rw [s.forward_eq i]
@[simp] theorem State.forward_bank (i : Instr) : (s.forward i).bank = s.bank := by rw [s.forward_eq i]
@[simp] theorem State.forward_spi (i : Instr) : (s.forward i).spi = s.spi := by rw [s.forward_eq i]
@[simp] theorem State.forward_cpuIf (i : Instr) : (s.forward i).cpuIf = s.cpuIf := by rw [s.forward_eq i]
@[simp] theorem State.forward_fault (i : Instr) : (s.forward i).fault = s.fault := by rw [s.forward_eq i]
@[simp] theorem State.forward_refused (i : Instr) : (s.forward i).refused = s.refused := by rw [s.forward_eq i]
@[simp] theorem State.forward_cpu (i : Instr) : (s.forward i).cpu = s.cpu := by rw [s.forward_eq i]
@[simp] theorem State.forward_rdata (i : Instr) : (s.forward i).rdata = s.rdata := by rw [s.forward_eq i]
@[simp] theorem State.forward_draws (i : Instr) : (s.forward i).draws = s.draws := by rw [s.forward_eq i]
@[simp] theorem State.forward_inbox (i : Instr) : (s.forward i).inbox = s.inbox := by rw [s.forward_eq i]

@[simp] theorem State.start_par (c : CpuId) (i : Instr) : (s.start c i).par = s.par := by simp [State.start]
@[simp] theorem State.start_dcrEn0 (c : CpuId) (i : Instr) : (s.start c i).dcrEn0 = s.dcrEn0 := by simp [State.start]
@[simp] theorem State.start_dcrEn1 (c : CpuId) (i : Instr) : (s.start c i).dcrEn1 = s.dcrEn1 := by simp [State.start]
@[simp] theorem State.start_bank (c : CpuId) (i : Instr) : (s.start c i).bank = s.bank := by simp [State.start]
@[simp] theorem State.start_spi (c : CpuId) (i : Instr) : (s.start c i).spi = s.spi := by simp [State.start]
@[simp] theorem State.start_cpuIf (c : CpuId) (i : Instr) : (s.start c i).cpuIf = s.cpuIf := by simp [State.start]
@[simp] theorem State.start_fault (c : CpuId) (i : Instr) : (s.start c i).fault = s.fault := by simp [State.start]
@[simp] theorem State.start_refused (c : CpuId) (i : Instr) : (s.start c i).refused = s.refused := by simp [State.start]
@[simp] theorem State.start_cpu (c : CpuId) (i : Instr) : (s.start c i).cpu = c := by simp [State.start]
@[simp] theorem State.start_rdata (c : CpuId) (i : Instr) : (s.start c i).rdata = none := by simp [State.start]
@[simp] theorem State.start_draws (c : CpuId) (i : Instr) : (s.start c i).draws = s.draws + 1 := by simp [State.start]
@[simp] theorem State.start_inbox (c : CpuId) (i : Instr) : (s.start c i).inbox = s.inbox := by simp [State.start]

/-- The start of an access that draws nothing. -/
theorem State.start_other (c : CpuId) (i : Instr) (h1 : i ≠ .rdIcciar) (h2 : i ≠ .rdIcchpir) : s.start c i = s.begin c :=
  State.forward_other _ i h1 h2

/-- The acknowledge's draw, and what it makes of the runs of every CPU. -/
theorem State.forward_ack (c2 : CpuId) :
    (s.forward .rdIcciar).late = s.ackRun[s.cpu].late s.draws ∧
    (s.forward .rdIcciar).ackRun[c2] =
      (if c2 = s.cpu then s.ackRun[s.cpu].after (s.claimable s.cpu (Config.drawTie s.draws)) s.draws else s.ackRun[c2]) ∧
    (s.forward .rdIcciar).peekRun = s.peekRun := by
  simp [State.forward]

/-- The highest-pending read's draw, and what it makes of the runs of every CPU. -/
theorem State.forward_peek (c2 : CpuId) :
    (s.forward .rdIcchpir).late = s.peekRun[s.cpu].late s.draws ∧
    (s.forward .rdIcchpir).peekRun[c2] =
      (if c2 = s.cpu then s.peekRun[s.cpu].after (s.offered s.cpu (Config.drawTie s.draws)) s.draws else s.peekRun[c2]) ∧
    (s.forward .rdIcchpir).ackRun = s.ackRun := by
  simp [State.forward]

/-- A late answer to a ready read lengthens the run, below the length drawn for it, which stays. -/
theorem LateRun.after_late (r : LateRun) (now : Nat) (h : r.late now = true) :
    r.after true now = { since := r.start now, count := r.count + 1 } ∧ r.count < Config.drawLateRun (r.start now) := by
  refine ⟨by simp [LateRun.after, h], by simpa [LateRun.late] using h⟩

end Sys2Proof.Machine
end

