-- ==== Sys2Proof/Laws/Driver.lean ====
section
/-! SUPPORT. How a driver program runs after another (Machine/Driver.lean). -/

namespace Sys2Proof.Machine

/-- What a run ends in, when its program is the first of two. -/
def Turn.chain {α β : Type} (f : α → Prog β) (self : CpuId) (t : Turn (Prog α) α) : Turn (Prog β) β :=
  match t with
  | .more p w => .more (p.bind f) w
  | .finished a w => (f a).run self w
  | .waiting w => .waiting w
  | .faulted e w => .faulted e w
  | .refused r w => .refused r w

/-- A program run after another: the first to its end, then the second. -/
theorem Prog.run_bind {α β : Type} (self : CpuId) (p : Prog α) (f : α → Prog β) (w : World) :
    (p.bind f).run self w = (p.run self w).chain f self := by
  induction p generalizing w with
  | done a => rfl
  | rd i next ih =>
    simp only [Prog.bind, Prog.run]
    cases w.hw.issue self i with
    | next t => exact ih _ _
    | fault e => rfl
    | refused r => rfl
  | wr i next ih =>
    simp only [Prog.bind, Prog.run]
    cases w.hw.issue self i with
    | next t => exact ih _
    | fault e => rfl
    | refused r => rfl
  | look next ih => exact ih _ _
  | change g next ih => exact ih _
  | acquire next ih =>
    simp only [Prog.bind, Prog.run]
    cases w.soft.lock with
    | none => exact ih _
    | some c => rfl
  | release next ih => exact ih _

/-- An access of a block that is not halted. -/
theorem State.issue_eq (s : State) (self : CpuId) (i : Instr) (h1 : s.fault = none) (h2 : s.refused = false) :
    s.issue self i = exec i (s.start self i) := by
  simp [State.issue, State.halted, h1, h2]

/-- An access the driver issues is the step that performs it from the inbox. -/
theorem step_of_issue (s : State) (r : Request) (rest : List Event) (i : Instr) (hin : s.inbox = .access r :: rest)
    (hh : s.halted = none) (ha : admissionOf s.par r = .admitted i) :
    step s = (State.start { s with inbox := rest } r.cpu i).settle (State.issue { s with inbox := rest } r.cpu i) := by
  have h2 : State.halted { s with inbox := rest } = none := hh
  unfold step State.issue
  rw [hin, h2]
  simp only [hh, Option.getD_none, performEvent, performAccess, ha]

end Sys2Proof.Machine
end

