-- ==== Sys2Proof/Laws/Operands.lean ====
section
/-! SUPPORT. What the operand forms of Machine/Operands.lean give, bit by bit and field by field. -/

namespace Sys2Proof.Machine

theorem foldl_bits_getLsbD (m : Nat) (p : Nat → Prop) [DecidablePred p] (i : Nat) (hm : m ≤ 32) :
    ((List.range m).foldl (fun (w : Word) j => if p j then w ||| (1#32 <<< j) else w) 0).getLsbD i =
      (decide (i < m) && decide (p i)) := by
  induction m with
  | zero => simp
  | succ m ih =>
    rw [List.range_succ, List.foldl_append, List.foldl_cons, List.foldl_nil]
    have ih := ih (by omega)
    by_cases hp : p m
    · rw [if_pos hp, BitVec.getLsbD_or, ih]
      have h1 : (1#32 <<< m).getLsbD i = decide (i = m) := by
        rw [BitVec.getLsbD_shiftLeft, BitVec.getLsbD_one]
        by_cases h : i = m
        · subst h; simp; omega
        · by_cases h2 : i < m
          · simp [h2, h]
          · have : i - m ≠ 0 := by omega
            simp [h, h2, this]
      rw [h1]
      by_cases h : i = m
      · subst h; simp [hp]
      · have : (i < m + 1) ↔ (i < m) := by omega
        simp [h, this]
    · rw [if_neg hp, ih]
      by_cases h : i = m
      · subst h; simp [hp]
      · have : (i < m + 1) ↔ (i < m) := by omega
        simp [this]

/-- R170: bit `j` of a read of a density-32 array. -/
theorem bitword_getLsbD (maxl k : Nat) (f : Nat → Bool) (j : Nat) :
    (bitword maxl k f).getLsbD j = (decide (j < 32) && (decide (32 * k + j < maxl) && f (32 * k + j))) := by
  unfold bitword
  rw [foldl_bits_getLsbD 32 (fun j => 32 * k + j < maxl ∧ f (32 * k + j) = true) j (by omega)]
  simp [Bool.decide_and]

theorem foldl_fields_getLsbD (w m : Nat) (p : Nat → Prop) [DecidablePred p] (f : Nat → Word) (hw : 0 < w)
    (hm : m * w ≤ 32) (hf : ∀ j b, w ≤ b → (f j).getLsbD b = false) (i : Nat) :
    ((List.range m).foldl (fun (x : Word) j => if p j then x ||| (f j <<< (j * w)) else x) 0).getLsbD i =
      (decide (i < m * w) && (decide (p (i / w)) && (f (i / w)).getLsbD (i % w))) := by
  induction m with
  | zero => simp
  | succ m ih =>
    have hm1 : m * w + w ≤ 32 := by rw [Nat.succ_mul] at hm; exact hm
    have ih := ih (by omega)
    rw [List.range_succ, List.foldl_append, List.foldl_cons, List.foldl_nil, Nat.succ_mul]
    have key : (f m <<< (m * w)).getLsbD i =
        (decide (m * w ≤ i) && (decide (i < m * w + w) && (f m).getLsbD (i - m * w))) := by
      rw [BitVec.getLsbD_shiftLeft]
      by_cases h1 : m * w ≤ i
      · by_cases h2 : i < m * w + w
        · have h3 : i < 32 := by omega
          simp [h1, h2, h3]
        · simp [h1, h2, hf m (i - m * w) (by omega)]
      · simp [h1, Nat.lt_of_not_le h1]
    by_cases h1 : m * w ≤ i
    · have h0 : ¬ i < m * w := by omega
      by_cases h2 : i < m * w + w
      · have hd : i / w = m := by
          rw [Nat.div_eq_iff hw]; constructor <;> omega
        have hmod : i % w = i - m * w := by
          have := Nat.div_add_mod i w; rw [hd, Nat.mul_comm] at this; omega
        by_cases hp : p m
        · rw [if_pos hp, BitVec.getLsbD_or, ih, key]
          simp [h0, h1, h2, hd, hmod, hp]
        · rw [if_neg hp, ih]
          simp [h0, h2, hd, hp]
      · by_cases hp : p m
        · rw [if_pos hp, BitVec.getLsbD_or, ih, key]
          simp [h0, h2]
        · rw [if_neg hp, ih]
          simp [h0, h2]
    · have h0 : i < m * w := by omega
      have h2 : i < m * w + w := by omega
      by_cases hp : p m
      · rw [if_pos hp, BitVec.getLsbD_or, ih, key]
        simp [h0, h1, h2]
      · rw [if_neg hp, ih]
        simp [h0, h2]

theorem Density.width_pos (d : Density) : 0 < d.width := by cases d <;> decide

theorem Density.fields_mul_width (d : Density) : d.fields * d.width = 32 := by cases d <;> rfl

/-- R200: bit `i` of a read of a packed array whose fields fit their width. -/
theorem fieldword_getLsbD (maxl k : Nat) (d : Density) (f : Nat → Word)
    (hf : ∀ n b, d.width ≤ b → (f n).getLsbD b = false) (i : Nat) :
    (fieldword maxl k d f).getLsbD i =
      (decide (i < 32) && (decide (d.fields * k + i / d.width < maxl) &&
        (f (d.fields * k + i / d.width)).getLsbD (i % d.width))) := by
  unfold fieldword
  rw [foldl_fields_getLsbD d.width d.fields (fun j => d.fields * k + j < maxl) (fun j => f (d.fields * k + j))
    d.width_pos (le_of_eq d.fields_mul_width) (fun j b h => hf _ b h) i, d.fields_mul_width]

end Sys2Proof.Machine
end

