-- ==== Sys2Proof/Laws/PerInstr.lean ====
section
/-! SUPPORT. Statements about every access as a term, one lemma per constructor. -/

namespace Sys2Proof.Laws

/-- R101: the key of an access of the register map has its direction in bit 13, its window in bit 12, and an offset that
is a multiple of 4. -/
def KeyForm.Statement (i : Instr) : Prop :=
  i.wellFormed = true →
    i.key.getLsbD 13 = (i.dir == .wr) ∧ i.key.getLsbD 12 = (i.win == .cpuif) ∧ i.key.toNat % 4 = 0

theorem keyForm_of (i : Instr) (hd : i.off % 4 = 0) : KeyForm.Statement i := by
  intro _
  have h : i.key = keyOf i.dir i.win (BitVec.ofNat 12 i.off) := rfl
  have hm : ∀ (d w : BitVec 1) (x : BitVec 12), (d ++ (w ++ x)).toNat % 4 = x.toNat % 4 := by
    intro d w x
    simp only [BitVec.toNat_append, Nat.shiftLeft_eq]
    show _ % 2 ^ 2 = _ % 2 ^ 2
    rw [Nat.or_mod_two_pow, Nat.or_mod_two_pow]
    have h1 : d.toNat * 2 ^ (1 + 12) % 2 ^ 2 = 0 := Nat.mod_eq_zero_of_dvd ⟨d.toNat * 2 ^ 11, by ring⟩
    have h2 : w.toNat * 2 ^ 12 % 2 ^ 2 = 0 := Nat.mod_eq_zero_of_dvd ⟨w.toNat * 2 ^ 10, by ring⟩
    rw [h1, h2, Nat.zero_or, Nat.zero_or]
  refine ⟨?_, ?_, ?_⟩
  · rw [h, keyOf, BitVec.getLsbD_append]
    cases i.dir <;> simp [Dir.bit]
  · rw [h, keyOf, BitVec.getLsbD_append, BitVec.getLsbD_append]
    cases i.win <;> simp [Win.bit]
  · rw [h, keyOf, hm, BitVec.toNat_ofNat]
    omega

theorem KeyForm.rdIcddcr : KeyForm.Statement (.rdIcddcr) := keyForm_of _ (by simp [Instr.off, Instr.place])
theorem KeyForm.wrIcddcr (v : Word) : KeyForm.Statement (.wrIcddcr v) := keyForm_of _ (by simp [Instr.off, Instr.place])
theorem KeyForm.rdIcdictr : KeyForm.Statement (.rdIcdictr) := keyForm_of _ (by simp [Instr.off, Instr.place])
theorem KeyForm.rdIcdiidr : KeyForm.Statement (.rdIcdiidr) := keyForm_of _ (by simp [Instr.off, Instr.place])
theorem KeyForm.rdIcdisr (k : Nat) : KeyForm.Statement (.rdIcdisr k) := keyForm_of _ (by simp [Instr.off, Instr.place])
theorem KeyForm.wrIcdisr (k : Nat) (v : Word) : KeyForm.Statement (.wrIcdisr k v) := keyForm_of _ (by simp [Instr.off, Instr.place])
theorem KeyForm.rdIcdiser (k : Nat) : KeyForm.Statement (.rdIcdiser k) := keyForm_of _ (by simp [Instr.off, Instr.place])
theorem KeyForm.wrIcdiser (k : Nat) (v : Word) : KeyForm.Statement (.wrIcdiser k v) := keyForm_of _ (by simp [Instr.off, Instr.place])
theorem KeyForm.rdIcdicer (k : Nat) : KeyForm.Statement (.rdIcdicer k) := keyForm_of _ (by simp [Instr.off, Instr.place])
theorem KeyForm.wrIcdicer (k : Nat) (v : Word) : KeyForm.Statement (.wrIcdicer k v) := keyForm_of _ (by simp [Instr.off, Instr.place])
theorem KeyForm.rdIcdispr (k : Nat) : KeyForm.Statement (.rdIcdispr k) := keyForm_of _ (by simp [Instr.off, Instr.place])
theorem KeyForm.wrIcdispr (k : Nat) (v : Word) : KeyForm.Statement (.wrIcdispr k v) := keyForm_of _ (by simp [Instr.off, Instr.place])
theorem KeyForm.rdIcdicpr (k : Nat) : KeyForm.Statement (.rdIcdicpr k) := keyForm_of _ (by simp [Instr.off, Instr.place])
theorem KeyForm.wrIcdicpr (k : Nat) (v : Word) : KeyForm.Statement (.wrIcdicpr k v) := keyForm_of _ (by simp [Instr.off, Instr.place])
theorem KeyForm.rdIcdabr (k : Nat) : KeyForm.Statement (.rdIcdabr k) := keyForm_of _ (by simp [Instr.off, Instr.place])
theorem KeyForm.rdIcdipr (k : Nat) : KeyForm.Statement (.rdIcdipr k) := keyForm_of _ (by simp [Instr.off, Instr.place])
theorem KeyForm.wrIcdipr (k : Nat) (v : Word) : KeyForm.Statement (.wrIcdipr k v) := keyForm_of _ (by simp [Instr.off, Instr.place])
theorem KeyForm.rdIcdiptr (k : Nat) : KeyForm.Statement (.rdIcdiptr k) := keyForm_of _ (by simp [Instr.off, Instr.place])
theorem KeyForm.wrIcdiptr (k : Nat) (v : Word) : KeyForm.Statement (.wrIcdiptr k v) := keyForm_of _ (by simp [Instr.off, Instr.place])
theorem KeyForm.rdIcdicfr (k : Nat) : KeyForm.Statement (.rdIcdicfr k) := keyForm_of _ (by simp [Instr.off, Instr.place])
theorem KeyForm.wrIcdicfr (k : Nat) (v : Word) : KeyForm.Statement (.wrIcdicfr k v) := keyForm_of _ (by simp [Instr.off, Instr.place])
theorem KeyForm.wrIcdsgir (v : Word) : KeyForm.Statement (.wrIcdsgir v) := keyForm_of _ (by simp [Instr.off, Instr.place])
theorem KeyForm.rdPidr47 (k : Nat) : KeyForm.Statement (.rdPidr47 k) := keyForm_of _ (by simp [Instr.off, Instr.place])
theorem KeyForm.rdPidr03 (k : Nat) : KeyForm.Statement (.rdPidr03 k) := keyForm_of _ (by simp [Instr.off, Instr.place])
theorem KeyForm.rdCidr (k : Nat) : KeyForm.Statement (.rdCidr k) := keyForm_of _ (by simp [Instr.off, Instr.place])
theorem KeyForm.rdIccicr : KeyForm.Statement (.rdIccicr) := keyForm_of _ (by simp [Instr.off, Instr.place])
theorem KeyForm.wrIccicr (v : Word) : KeyForm.Statement (.wrIccicr v) := keyForm_of _ (by simp [Instr.off, Instr.place])
theorem KeyForm.rdIccpmr : KeyForm.Statement (.rdIccpmr) := keyForm_of _ (by simp [Instr.off, Instr.place])
theorem KeyForm.wrIccpmr (v : Word) : KeyForm.Statement (.wrIccpmr v) := keyForm_of _ (by simp [Instr.off, Instr.place])
theorem KeyForm.rdIccbpr : KeyForm.Statement (.rdIccbpr) := keyForm_of _ (by simp [Instr.off, Instr.place])
theorem KeyForm.wrIccbpr (v : Word) : KeyForm.Statement (.wrIccbpr v) := keyForm_of _ (by simp [Instr.off, Instr.place])
theorem KeyForm.rdIcciar : KeyForm.Statement (.rdIcciar) := keyForm_of _ (by simp [Instr.off, Instr.place])
theorem KeyForm.wrIcceoir (v : Word) : KeyForm.Statement (.wrIcceoir v) := keyForm_of _ (by simp [Instr.off, Instr.place])
theorem KeyForm.rdIccrpr : KeyForm.Statement (.rdIccrpr) := keyForm_of _ (by simp [Instr.off, Instr.place])
theorem KeyForm.rdIcchpir : KeyForm.Statement (.rdIcchpir) := keyForm_of _ (by simp [Instr.off, Instr.place])
theorem KeyForm.rdIccabpr : KeyForm.Statement (.rdIccabpr) := keyForm_of _ (by simp [Instr.off, Instr.place])
theorem KeyForm.wrIccabpr (v : Word) : KeyForm.Statement (.wrIccabpr v) := keyForm_of _ (by simp [Instr.off, Instr.place])
theorem KeyForm.rdIcciidr : KeyForm.Statement (.rdIcciidr) := keyForm_of _ (by simp [Instr.off, Instr.place])

/-- R104, R138: an access of a per-line array is at the array's region plus four times its word index. -/
theorem off_of_lines (i : Instr) (a : Machine.LineArray) (h : i.registerClass = .lines a) :
    i.win = .dist ∧ i.off = a.region + 4 * i.index := by
  cases i <;> cases h <;> exact ⟨rfl, rfl⟩

end Sys2Proof.Laws
end

