-- ==== Sys2Proof/Laws/Reset.lean ====
section
/-! SUPPORT. What every line and every CPU interface holds after reset (Machine/State.lean, Machine/Events.lean). -/

namespace Sys2Proof.Machine

variable (par : Params) (lv : Levels) (d : ResetDraw)

@[simp] theorem afterReset_sgiOf (c : CpuId) (n : Nat) : (State.afterReset par lv d).sgiOf c n = SgiLine.idle := by
  simp [State.sgiOf, State.afterReset]

/-- R53: a PPI after reset. -/
theorem afterReset_ppiOf (c : CpuId) (n : Nat) (h1 : 16 ≤ n) (h2 : n < 32) :
    (State.afterReset par lv d).ppiOf c n =
      PpiLine.idle (tabGet d.cfgPpi[c.val] 0 (n - 16)) (tabGet lv.ppi[c.val] false (n - 16)) := by
  have h3 : n - 16 < 16 := by omega
  simp [State.ppiOf, State.afterReset, tabOf_getElem, h3, tabGet_of_lt]

/-- R53: an SPI after reset. -/
theorem afterReset_spiOf (n : Nat) (h2 : n < 256) :
    (State.afterReset par lv d).spiOf n = SpiLine.idle (tabGet d.cfgSpi 0 (n - 32)) (tabGet lv.spi false (n - 32)) := by
  have h3 : n - 32 < 224 := by omega
  simp [State.spiOf, State.afterReset, tabGet_tabOf, h3]

/-- R53: a CPU interface after reset. -/
@[simp] theorem afterReset_ifOf (c : CpuId) :
    (State.afterReset par lv d).ifOf c = CpuIf.idle d.bpr[c.val] d.abpr[c.val] := by
  simp [State.ifOf, State.afterReset, tabGet_of_lt]

/-- The levels of a state, input by input. -/
theorem State.levels_ppi (s : State) (c : CpuId) (n : Nat) (h1 : 16 ≤ n) (h2 : n < 32) :
    tabGet s.levels.ppi[c.val] false (n - 16) = (s.ppiOf c n).level := by
  have h3 : n - 16 < 16 := by omega
  simp [State.levels, State.ppiOf, tabOf_getElem, h3, tabGet_of_lt]

theorem State.levels_spi (s : State) (n : Nat) (h2 : n < 256) :
    tabGet s.levels.spi false (n - 32) = (s.spiOf n).level := by
  have h3 : n - 32 < 224 := by omega
  simp [State.levels, State.spiOf, tabGet_tabOf, h3]

end Sys2Proof.Machine
end

