-- ==== Sys2Proof/Laws/Step.lean ====
section
/-! SUPPORT. Everything one step can do (Machine/Step.lean), said once. -/

namespace Sys2Proof.Machine

variable (s t : State)

/-- What `settle` leaves. -/
theorem State.settle_next (o : Host.Outcome State Fault Refusal) (h : s.settle o = .next t) :
    o = .next t ∨ ∃ f, o = .fault f ∧ t = s.recordFault f := by
  cases o with
  | next u => exact .inl (by simpa [State.settle] using h)
  | fault f =>
    simp only [State.settle, Host.Outcome.next.injEq] at h
    exact .inr ⟨f, rfl, h.symm⟩
  | refused r => simp [State.settle] at h

/-- What an access can leave. -/
theorem performAccess_next (r : Request) (h : performAccess r s = .next t) :
    r.cpu.val < s.par.ncpu ∧
    ((admissionOf s.par r = .elsewhere ∧ t = s.begin r.cpu) ∨
     (admissionOf s.par r = .nonsecure ∧ t = (s.begin r.cpu).recordRefusal) ∨
     (∃ e, admissionOf s.par r = .faulty e ∧ t = (s.begin r.cpu).recordFault e) ∨
     (∃ i e, admissionOf s.par r = .admitted i ∧ exec i (s.start r.cpu i) = .fault e ∧
       t = (s.start r.cpu i).recordFault e) ∨
     (∃ i, admissionOf s.par r = .admitted i ∧ exec i (s.start r.cpu i) = .next t)) := by
  have hc : ¬ s.par.ncpu ≤ r.cpu.val := by
    intro hc
    simp [performAccess, admissionOf, hc] at h
  refine ⟨Nat.lt_of_not_le hc, ?_⟩
  unfold performAccess at h
  cases ha : admissionOf s.par r with
  | elsewhere => exact .inl ⟨rfl, by simpa [ha] using h.symm⟩
  | noSuchCpu => simp [ha] at h
  | nonsecure => exact .inr (.inl ⟨rfl, by simpa [ha] using h.symm⟩)
  | faulty f => exact .inr (.inr (.inl ⟨f, rfl, by simpa [ha] using h.symm⟩))
  | admitted i =>
    rw [ha] at h
    rcases State.settle_next _ _ _ h with h | ⟨f, hf, h⟩
    · exact .inr (.inr (.inr (.inr ⟨i, rfl, h⟩)))
    · exact .inr (.inr (.inr (.inl ⟨i, f, rfl, hf, h⟩)))

theorem State.halted_next (o : Host.Outcome State Fault Refusal) (h : s.halted.getD o = .next t) :
    s.halted = none ∧ o = .next t := by
  cases hh : s.halted with
  | none => exact ⟨rfl, by simpa [hh] using h⟩
  | some x =>
    rw [hh] at h
    unfold State.halted at hh
    split at hh
    · cases hh; simp at h
    · split at hh
      · cases hh; simp at h
      · cases hh

/-- Every next state a step can lead to. -/
theorem step_next (h : step s = .next t) :
    (s.inbox = [] ∧ s.halted = none ∧ t = s) ∨
    (∃ rest, s.inbox = .reset :: rest ∧ t = State.resetEvent { s with inbox := rest }) ∨
    (∃ c n b rest, s.inbox = .setLevelPpi c n b :: rest ∧ s.halted = none ∧ s.hasPpi c n = true ∧
      t = State.setLevelPpi { s with inbox := rest } c n b) ∨
    (∃ n b rest, s.inbox = .setLevelSpi n b :: rest ∧ s.halted = none ∧ s.hasSpi n = true ∧
      t = State.setLevelSpi { s with inbox := rest } n b) ∨
    (∃ r rest, s.inbox = .access r :: rest ∧ s.halted = none ∧
      performAccess r { s with inbox := rest } = .next t) := by
  unfold step at h
  cases hb : s.inbox with
  | nil =>
    rw [hb] at h
    obtain ⟨h1, h2⟩ := State.halted_next _ _ _ h
    exact .inl ⟨rfl, h1, by simpa using h2.symm⟩
  | cons e rest =>
    rw [hb] at h
    cases e with
    | reset => exact .inr (.inl ⟨rest, rfl, by simpa [performEvent] using h.symm⟩)
    | setLevelPpi c n b =>
      obtain ⟨h1, h2⟩ := State.halted_next _ _ _ h
      simp only [performEvent] at h2
      split at h2
      · rename_i hp
        exact .inr (.inr (.inl ⟨c, n, b, rest, rfl, h1, hp, by simpa using h2.symm⟩))
      · cases h2
    | setLevelSpi n b =>
      obtain ⟨h1, h2⟩ := State.halted_next _ _ _ h
      simp only [performEvent] at h2
      split at h2
      · rename_i hp
        exact .inr (.inr (.inr (.inl ⟨n, b, rest, rfl, h1, hp, by simpa using h2.symm⟩)))
      · cases h2
    | access r =>
      obtain ⟨h1, h2⟩ := State.halted_next _ _ _ h
      exact .inr (.inr (.inr (.inr ⟨r, rest, rfl, h1, h2⟩)))

end Sys2Proof.Machine
end

