-- ==== Sys2Proof/Tests/Slice0.lean ====
section
/-! SUPPORT. Tests of the model against spec/95 and the encodings of spec/30, and for every obligation with hypotheses a
state that meets them. -/

namespace Sys2Proof.Tests

-- One theorem at a time: the kernel evaluations of all of them at once need too many threads.
set_option Elab.async false

open Sys2Proof Sys2Proof.Machine

/- Well-formedness (R104): every array refuses the index after its last. -/

theorem test_wf_security : (Instr.rdIcdisr 7).wellFormed = true ∧ (Instr.rdIcdisr 8).wellFormed = false ∧
    (Instr.wrIcdisr 8 0).wellFormed = false := by decide
theorem test_wf_enable : (Instr.rdIcdiser 31).wellFormed = true ∧ (Instr.rdIcdiser 32).wellFormed = false ∧
    (Instr.wrIcdiser 32 0).wellFormed = false := by decide
theorem test_wf_disable : (Instr.wrIcdicer 7 0).wellFormed = true ∧ (Instr.rdIcdicer 8).wellFormed = false ∧
    (Instr.wrIcdicer 8 0).wellFormed = false := by decide
theorem test_wf_pending : (Instr.rdIcdispr 32).wellFormed = false ∧ (Instr.wrIcdispr 32 0).wellFormed = false ∧
    (Instr.rdIcdicpr 32).wellFormed = false ∧ (Instr.wrIcdicpr 32 0).wellFormed = false := by decide
theorem test_wf_active : (Instr.rdIcdabr 7).wellFormed = true ∧ (Instr.rdIcdabr 8).wellFormed = false := by decide
theorem test_wf_priority : (Instr.rdIcdipr 63).wellFormed = true ∧ (Instr.rdIcdipr 64).wellFormed = false ∧
    (Instr.wrIcdipr 64 0).wellFormed = false := by decide
theorem test_wf_targets : (Instr.rdIcdiptr 64).wellFormed = false ∧ (Instr.wrIcdiptr 64 0).wellFormed = false := by decide
theorem test_wf_configuration : (Instr.rdIcdicfr 15).wellFormed = true ∧ (Instr.rdIcdicfr 16).wellFormed = false ∧
    (Instr.wrIcdicfr 16 0).wellFormed = false := by decide
theorem test_wf_identification : (Instr.rdPidr47 4).wellFormed = false ∧ (Instr.rdPidr03 4).wellFormed = false ∧
    (Instr.rdCidr 4).wellFormed = false ∧ (Instr.rdCidr 3).wellFormed = true := by decide

/- Decoding: keys written out bit by bit from R101, R104 and R105 (direction, window, twelve offset bits), then the data. -/

theorem test_decode_dist_global :
    decodeTableWord 16 0b00_0_0_000000000000 = some .rdIcddcr ∧
    decodeTableWord 48 0x00000003_2000 = some (.wrIcddcr 3) ∧ 0b00_1_0_000000000000 = 0x2000 ∧
    decodeTableWord 16 0b00_0_0_000000000100 = some .rdIcdictr ∧
    decodeTableWord 16 0b00_0_0_000000001000 = some .rdIcdiidr := by decide
theorem test_decode_security :
    decodeTableWord 16 0b00_0_0_0000100_00100 = some (.rdIcdisr 1) ∧
    decodeTableWord 48 (0x20 * 2 ^ 16 + 0b00_1_0_0000100_11100) = some (.wrIcdisr 7 0x20) := by decide
theorem test_decode_enables :
    decodeTableWord 16 0b00_0_0_00010_1111100 = some (.rdIcdiser 31) ∧
    decodeTableWord 48 (0x20 * 2 ^ 16 + 0b00_1_0_00010_0000100) = some (.wrIcdiser 1 0x20) ∧
    decodeTableWord 16 0b00_0_0_0001100_00100 = some (.rdIcdicer 1) ∧
    decodeTableWord 48 (0x20 * 2 ^ 16 + 0b00_1_0_0001100_00100) = some (.wrIcdicer 1 0x20) := by decide
theorem test_decode_pending :
    decodeTableWord 16 0b00_0_0_00100_0000100 = some (.rdIcdispr 1) ∧
    decodeTableWord 48 (0x20 * 2 ^ 16 + 0b00_1_0_00100_0000100) = some (.wrIcdispr 1 0x20) ∧
    decodeTableWord 16 0b00_0_0_00101_0000100 = some (.rdIcdicpr 1) ∧
    decodeTableWord 48 (0x100 * 2 ^ 16 + 0b00_1_0_00101_0000100) = some (.wrIcdicpr 1 0x100) ∧
    decodeTableWord 16 0b00_0_0_0011000_00100 = some (.rdIcdabr 1) := by decide
theorem test_decode_fields :
    decodeTableWord 16 0b00_0_0_0100_00100100 = some (.rdIcdipr 9) ∧
    decodeTableWord 48 (0xA000 * 2 ^ 16 + 0b00_1_0_0100_00100100) = some (.wrIcdipr 9 0xA000) ∧
    decodeTableWord 16 0b00_0_0_1000_11111100 = some (.rdIcdiptr 63) ∧
    decodeTableWord 48 (0xFF00 * 2 ^ 16 + 0b00_1_0_1000_00100100) = some (.wrIcdiptr 9 0xFF00) ∧
    decodeTableWord 16 0b00_0_0_110000_001000 = some (.rdIcdicfr 2) ∧
    decodeTableWord 48 (0xC00 * 2 ^ 16 + 0b00_1_0_110000_001000) = some (.wrIcdicfr 2 0xC00) := by decide
theorem test_decode_sgi_and_ids :
    decodeTableWord 48 (0x40003 * 2 ^ 16 + 0b00_1_0_111100000000) = some (.wrIcdsgir 0x40003) ∧
    decodeTableWord 16 0b00_0_0_11111101_1100 = some (.rdPidr47 3) ∧
    decodeTableWord 16 0b00_0_0_11111110_0000 = some (.rdPidr03 0) ∧
    decodeTableWord 16 0b00_0_0_11111111_0100 = some (.rdCidr 1) := by decide
theorem test_decode_cpu_interface :
    decodeTableWord 16 0b00_0_1_000000000000 = some .rdIccicr ∧
    decodeTableWord 48 (0x1F * 2 ^ 16 + 0b00_1_1_000000000000) = some (.wrIccicr 0x1F) ∧
    decodeTableWord 16 0b00_0_1_000000000100 = some .rdIccpmr ∧
    decodeTableWord 48 (0xF0 * 2 ^ 16 + 0b00_1_1_000000000100) = some (.wrIccpmr 0xF0) ∧
    decodeTableWord 16 0b00_0_1_000000001000 = some .rdIccbpr ∧
    decodeTableWord 48 (5 * 2 ^ 16 + 0b00_1_1_000000001000) = some (.wrIccbpr 5) ∧
    decodeTableWord 16 0b00_0_1_000000001100 = some .rdIcciar := by decide
theorem test_decode_cpu_interface_rest :
    decodeTableWord 48 (0x25 * 2 ^ 16 + 0b00_1_1_000000010000) = some (.wrIcceoir 0x25) ∧
    decodeTableWord 16 0b00_0_1_000000010100 = some .rdIccrpr ∧
    decodeTableWord 16 0b00_0_1_000000011000 = some .rdIcchpir ∧
    decodeTableWord 16 0b00_0_1_000000011100 = some .rdIccabpr ∧
    decodeTableWord 48 (6 * 2 ^ 16 + 0b00_1_1_000000011100) = some (.wrIccabpr 6) ∧
    decodeTableWord 16 0b00_0_1_000011111100 = some .rdIcciidr := by decide

/-- F-1 to F-9: what is no access. -/
theorem test_decode_faults :
    decodeAccess .rd .dist 0x00C 32 0 = .error .unmappedOffset ∧
    decodeAccess .rd .dist 0x0A0 32 0 = .error .unmappedOffset ∧
    decodeAccess .rd .cpuif 0x020 32 0 = .error .unmappedOffset ∧
    decodeAccess .wr .dist 0xF04 32 0 = .error .unmappedOffset ∧
    decodeAccess .rd .dist 0x400 8 0 = .error .badWidthOrAlignment ∧
    decodeAccess .rd .dist 0x402 32 0 = .error .badWidthOrAlignment ∧
    decodeAccess .wr .dist 0x004 32 0 = .error .writeToReadOnly ∧
    decodeAccess .wr .cpuif 0x00C 32 0 = .error .writeToReadOnly ∧
    decodeAccess .rd .cpuif 0x010 32 0 = .error .readOfWriteOnly := by decide

/-- The records that hold no access. -/
theorem test_decode_records :
    decode [] = .error .recordLength ∧ decode [0, 0x40, 0, 0, 0, 0] = .error .keyTooWide ∧
    decode [0x04, 0x21, 0x20, 0, 0, 0] = .ok (.wrIcdiser 1 0x20) ∧
    (Instr.wrIcdiser 1 0x20).encode = [0x04, 0x21, 0x20, 0, 0, 0] := by decide

/-- The written form of an access (R112). -/
theorem test_written_form :
    (Instr.rdIcdipr 9).asm = "RD DIST.ICDIPR[9]" ∧ (Instr.wrIcceoir 0x25).asm = "WR CPUIF.ICCEOIR, 0x00000025" ∧
    (Instr.rdPidr47 0).mnemonic = "RD_PIDR4_7" := by decide

/- The addressing layer: table A of spec/95. -/

theorem test_addressing :
    (wordIndex 37 .d2, byteOffset 37 .d2, bitShift 37 .d2, bitMask 37 .d2) = (18, 0x48, 16, 0xFFFF0000#32) ∧
    (wordIndex 5 .d1, byteOffset 5 .d1, bitShift 5 .d1, bitMask 5 .d1) = (5, 0x14, 0, 0xFFFFFFFF#32) ∧
    (wordIndex 37 .d8, byteOffset 37 .d8, bitShift 37 .d8, bitMask 37 .d8) = (4, 0x10, 20, 0x00F00000#32) ∧
    (wordIndex 255 .d16, byteOffset 255 .d16, bitShift 255 .d16, bitMask 255 .d16) = (15, 0x3C, 30, 0xC0000000#32) ∧
    (wordIndex 1023 .d32, byteOffset 1023 .d32, bitShift 1023 .d32, bitMask 1023 .d32) = (31, 0x7C, 31, 0x80000000#32) := by
  decide
theorem test_fields :
    fieldGet 0x00AB0000 38 .d4 = 0xAB ∧ fieldPut 0x11223344 37 .d4 0xA0 = 0x1122A044 ∧
    fieldPut 0xFFFFFFFF 37 .d16 1 = 0xFFFFF7FF ∧ fieldPut 0 5 .d1 0x12345678 = 0x12345678 ∧
    fieldPut 0 37 .d4 0x1A5 = 0x0000A500 ∧ LineArray.priority.address 0x1000 37 = 0x1424 := by decide
/-- R139, class by class. -/
theorem test_densities :
    (Instr.rdIcdisr 0).density = .d32 ∧ (Instr.wrIcdiser 0 0).density = .d32 ∧ (Instr.rdIcdabr 0).density = .d32 ∧
    (Instr.rdIcdipr 0).density = .d4 ∧ (Instr.wrIcdiptr 0 0).density = .d4 ∧ (Instr.rdIcdicfr 0).density = .d16 ∧
    (Instr.rdIcddcr).density = .d1 ∧ (Instr.wrIcdsgir 0).density = .d1 ∧ (Instr.rdIccpmr).density = .d1 := by decide

/- One access on a small state. -/

/-- What an access by CPU `c` returns. -/
def reads (c : CpuId) (i : Instr) (s : State) : Option Word :=
  match exec i (s.begin c) with
  | .next t => t.rdata
  | .fault _ | .refused _ => none

/-- What an access by CPU `c` leaves. -/
def leaves (c : CpuId) (i : Instr) (s : State) : State :=
  match exec i (s.begin c) with
  | .next t => t
  | .fault _ | .refused _ => s

/-- The fault of an access by CPU `c`. -/
def faults (c : CpuId) (i : Instr) (s : State) : Option Fault :=
  match exec i (s.begin c) with
  | .fault f => some f
  | .next _ | .refused _ => none

/-- The state with SPI `n` changed by `f`. -/
def withSpi (n : Nat) (f : SpiLine → SpiLine) (s : State) : State := s.updSpi (fun m l => if m = n then f l else l)

/-- The state with SGI `n` of CPU `c` pending from `src`. -/
def withSgi (c : CpuId) (n : Nat) (src : CpuId) (s : State) : State :=
  s.updSgi c (fun m l => if m = n then { l with pend := tabSet l.pend src.val true } else l)

/-- `Rdy` of spec/95 section F, with interface control `icr`. -/
def ready (icr : Word) : State :=
  { State.reset with dcrEn0 := true, dcrEn1 := true }.updIf 0
    (fun i => { i with icr := Icr.ofWord icr, pmr := 0xF0, bpr := 3, abpr := 7 })

/-- SPI 37 as in C-IAR2: level-sensitive and asserted, enabled, 1:N, target CPU 0, of priority `p` and group bit `g`. -/
def line37 (p : Byte) (g : Bool) (l : SpiLine) : SpiLine :=
  { l with en := true, sec := g, prio := p, tgt := 1, cfg := 1, level := true }

/-- The start state of C-IAR2. -/
def offered : State := withSpi 37 (line37 0x40 false) (ready 3)

/-- After C-IAR2. -/
def claimed37 : State := offered.acknowledge false 0

theorem test_ddcr : reads 0 .rdIcddcr State.reset = some 0 ∧
    reads 0 .rdIcddcr (leaves 0 (.wrIcddcr 0xFFFFFFFF) State.reset) = some 3 := by decide +kernel
theorem test_ddcr_group1 : (leaves 0 (.wrIcddcr 2) (ready 3)).dcrEn0 = false ∧
    (leaves 0 (.wrIcddcr 2) (ready 3)).dcrEn1 = true := by decide +kernel
theorem test_ictr : reads 0 .rdIcdictr State.reset = some 0x462 ∧
    typeWord { Config.reference with cpuNumber := 0, itl := 0 } = 0x400 ∧
    typeWord { Config.reference with cpuNumber := 7, itl := 7, lspi := 31 } = 0xFCE7 ∧
    maxLinesOf 0x462 = 96 ∧ cpuCountOf 0x462 = 4 := by decide +kernel
theorem test_ids : reads 0 .rdIcdiidr State.reset = some 0x0102043B ∧ reads 0 (.rdPidr03 0) State.reset = some 0x90 ∧
    reads 0 (.rdPidr47 0) State.reset = some 0 ∧ reads 0 (.rdCidr 0) State.reset = some 0 ∧
    reads 0 .rdIcciidr State.reset = some 0x0102043B := by decide +kernel

theorem test_isr : reads 0 (.rdIcdisr 1) (leaves 0 (.wrIcdisr 1 0x20) State.reset) = some 0x20 ∧
    ((leaves 0 (.wrIcdisr 1 0x20) State.reset).spiOf 37).sec = true := by decide +kernel
theorem test_isr_banked : reads 0 (.rdIcdisr 0) (leaves 1 (.wrIcdisr 0 0x80000000) State.reset) = some 0 ∧
    reads 1 (.rdIcdisr 0) (leaves 1 (.wrIcdisr 0 0x80000000) State.reset) = some 0x80000000 := by decide +kernel
theorem test_iser : reads 0 (.rdIcdiser 0) State.reset = some 0xFFFF ∧
    reads 0 (.rdIcdiser 0) (leaves 0 (.wrIcdiser 0 0xFFFFFFFF) State.reset) = some 0xFFFFFFFF ∧
    reads 1 (.rdIcdiser 0) (leaves 0 (.wrIcdiser 0 0xFFFFFFFF) State.reset) = some 0xFFFF := by decide +kernel
theorem test_iser_above_maxl :
    reads 0 (.rdIcdiser 3) (leaves 0 (.wrIcdiser 3 0xFFFFFFFF) State.reset) = some 0 := by decide +kernel
theorem test_icer :
    reads 0 (.rdIcdicer 1) (leaves 0 (.wrIcdicer 1 0x20) (leaves 0 (.wrIcdiser 1 0x120) State.reset)) = some 0x100 := by
  decide +kernel
theorem test_icer_sgis : reads 0 (.rdIcdiser 0) (leaves 0 (.wrIcdicer 0 0xFFFF) State.reset) = some 0xFFFF := by
  decide +kernel
theorem test_ispr : ((leaves 0 (.wrIcdispr 1 0x20) (withSpi 37 (fun l => { l with cfg := 1 }) State.reset)).spiOf 37).latch1 = true ∧
    reads 0 (.rdIcdispr 1) (withSpi 37 (line37 0 false) State.reset) = some 0x20 := by decide +kernel
theorem test_ispr_targets :
    ((leaves 0 (.wrIcdispr 1 0x100) (withSpi 40 (fun l => { l with tgt := 5 }) State.reset)).spiOf 40).latchN =
      #v[true, false, true, false, false, false, false, false] := by decide +kernel
theorem test_icpr :
    reads 0 (.rdIcdicpr 1) (leaves 0 (.wrIcdicpr 1 0x100)
      (withSpi 40 (fun l => { l with cfg := 3, latch1 := true }) State.reset)) = some 0 := by decide +kernel
theorem test_icpr_level :
    reads 0 (.rdIcdispr 1) (leaves 0 (.wrIcdicpr 1 0x20)
      (withSpi 37 (fun l => { line37 0 false l with latch1 := true }) State.reset)) = some 0x20 := by decide +kernel
theorem test_iabr : reads 3 (.rdIcdabr 1) claimed37 = some 0x20 := by decide +kernel

theorem test_ipr : reads 0 (.rdIcdipr 9) (leaves 0 (.wrIcdipr 9 0x12345678) State.reset) = some 0x10305070 := by
  decide +kernel
theorem test_ipr_above_maxl : reads 0 (.rdIcdipr 24) (leaves 0 (.wrIcdipr 24 0xFFFFFFFF) State.reset) = some 0 := by
  decide +kernel
theorem test_iptr : reads 2 (.rdIcdiptr 0) State.reset = some 0x04040404 ∧
    reads 0 (.rdIcdiptr 9) (leaves 0 (.wrIcdiptr 9 0xFF00) State.reset) = some 0xF00 := by decide +kernel
theorem test_iptr_private : reads 0 (.rdIcdiptr 7) (leaves 0 (.wrIcdiptr 7 0xFFFFFFFF) State.reset) = some 0x01010101 := by
  decide +kernel
theorem test_icfr : reads 0 (.rdIcdicfr 0) (leaves 0 (.wrIcdicfr 0 0) State.reset) = some 0xAAAAAAAA ∧
    reads 0 (.rdIcdicfr 2) (leaves 0 (.wrIcdicfr 2 0xC00) State.reset) = some 0xC00 := by decide +kernel
theorem test_icfr_faults :
    faults 0 (.wrIcdicfr 2 0x800) (withSpi 37 (fun l => { l with en := true }) State.reset) = some .configChangeWhileEnabled ∧
    faults 0 (.wrIcdicfr 2 0x2000) (withSpi 37 (fun l => { l with en := true }) State.reset) = none ∧
    faults 0 (.wrIcdicfr 2 0) (withSpi 40 (fun l => { l with cfg := 1, latch1 := true }) State.reset) =
      some .modelChangeWithState := by decide +kernel

theorem test_sgir :
    ((leaves 0 (.wrIcdsgir 0x47FF3) State.reset).sgiOf 2 3).pend = #v[true, false, false, false, false, false, false, false] ∧
    ((leaves 1 (.wrIcdsgir 0x010F0001) State.reset).sgiOf 1 1).pend[1] = false ∧
    ((leaves 1 (.wrIcdsgir 0x010F0001) State.reset).sgiOf 3 1).pend[1] = true ∧
    ((leaves 3 (.wrIcdsgir 0x02FF0005) State.reset).sgiOf 3 5).pend[3] = true := by decide +kernel
theorem test_sgir_group :
    ((leaves 0 (.wrIcdsgir 0x48003) State.reset).sgiOf 2 3).pend[0] = false ∧
    ((leaves 0 (.wrIcdsgir 0x48003) (leaves 2 (.wrIcdisr 0 8) State.reset)).sgiOf 2 3).pend[0] = true ∧
    faults 0 (.wrIcdsgir 0x03000000) State.reset = some .sgiFilterReserved := by decide +kernel

theorem test_icr : reads 0 .rdIccicr (leaves 0 (.wrIccicr 0xFFFFFFFF) State.reset) = some 0x1F := by decide +kernel
theorem test_pmr : reads 0 .rdIccpmr (leaves 0 (.wrIccpmr 0x1FF) State.reset) = some 0xF0 ∧
    reads 0 .rdIccpmr (leaves 0 (.wrIccpmr 5) State.reset) = some 0 := by decide +kernel
theorem test_bpr : reads 0 .rdIccbpr (leaves 0 (.wrIccbpr 0xF) State.reset) = some 7 := by decide +kernel
theorem test_bpr_least : ((State.reset.writeBpr true 2).ifOf 0).bpr = 3 ∧ ((State.reset.writeBpr false 2).ifOf 0).bpr = 2 := by
  decide +kernel
theorem test_abpr : reads 0 .rdIccabpr (leaves 0 (.wrIccabpr 6) State.reset) = some 6 := by decide +kernel
theorem test_abpr_least : ((State.reset.writeAbpr true 1).ifOf 0).abpr = 4 ∧ ((State.reset.writeAbpr false 1).ifOf 0).abpr = 1 := by
  decide +kernel
/-- R86 and R108: the same field again, whatever the reserved bits, keeps what the first write drew; after another value
the draw is free again. -/
theorem test_bpr_again :
    (((State.reset.writeBpr false 2).writeBpr true 2).ifOf 0).bpr = 2 ∧
    (((State.reset.writeBpr true 2).writeBpr false 2).ifOf 0).bpr = 3 ∧
    (((State.reset.writeBpr false 2).writeBpr true 0x102).ifOf 0).bpr = 2 ∧
    ((((State.reset.writeBpr true 2).writeBpr true 5).writeBpr false 2).ifOf 0).bpr = 2 := by decide +kernel

/-- C-IAR2, C-IAR3, C-IAR5 and C-IAR10. -/
theorem test_acknowledge :
    claimed37.rdata = some 0x25 ∧ (claimed37.spiOf 37).act1 = some 0 ∧ (claimed37.ifOf 0).stk = [⟨37, 0, 0x40⟩] ∧
    (offered.acknowledge true 0).rdata = some 0x3FF ∧
    ((withSpi 37 (line37 0 true) (ready 3)).acknowledge false 0).rdata = some 0x3FE ∧
    ((withSpi 37 (fun l => { line37 0 false l with tgt := 2 }) (ready 3)).acknowledge false 0).rdata = some 0x3FF := by
  decide +kernel
/-- C-IAR4, C-IAR6, C-IAR7 and C-IAR8. -/
theorem test_acknowledge_more :
    ((withSpi 37 (line37 0xF0 false) (ready 3)).acknowledge false 0).rdata = some 0x3FF ∧
    ((withSpi 37 (line37 0 true) (ready 7)).acknowledge false 0).rdata = some 0x25 ∧
    ((withSgi 0 15 3 (ready 3)).acknowledge false 0).rdata = some 0xC0F ∧
    ((withSpi 36 (line37 0x40 false) offered).acknowledge false 0).rdata = some 0x24 ∧
    ((withSpi 36 (line37 0x40 false) offered).acknowledge false 1).rdata = some 0x25 := by decide +kernel
/-- C-EOI1 to C-EOI3. -/
theorem test_eoi_faults : faults 0 (.wrIcceoir 0x25) (ready 3) = some .eoiMismatch ∧
    faults 0 (.wrIcceoir 0x24) claimed37 = some .eoiMismatch ∧
    faults 0 (.wrIcceoir 0x425) claimed37 = some .eoiMismatch := by decide +kernel
/-- C-EOI4 and C-EOI5. -/
theorem test_eoi : ((leaves 0 (.wrIcceoir 0xFFFFE025) claimed37).ifOf 0).stk = [] ∧
    ((leaves 0 (.wrIcceoir 0x25) claimed37).acknowledge false 0).rdata = some 0x25 := by decide +kernel
theorem test_rpr : reads 0 .rdIccrpr State.reset = some 0xFF ∧ reads 0 .rdIccrpr claimed37 = some 0x40 := by decide +kernel
/-- C-HPIR1 and C-HPIR2. -/
theorem test_hpir : (offered.updIf 0 (fun i => { i with pmr := 0 })).highestPending false 0 = 0x25 ∧
    (ready 3).highestPending false 0 = 0x3FF := by decide +kernel

/-- Table G: SPI 40 of priority `pa` runs, SPI 41 of priority `pb` is pending, under binary point `b`. -/
def preempts (b : BitVec 3) (pa pb : Byte) : Bool :=
  let s := ready 3
  let t := (withSpi 41 (line37 pb false) s).updIf 0 (fun i => { i with bpr := b, stk := [⟨40, 0, pa⟩] })
  (t.acknowledge false 0).rdata == some 0x29

theorem test_preemption :
    preempts 3 0x80 0x40 = true ∧ preempts 3 0x80 0x80 = false ∧ preempts 4 0x60 0x40 = true ∧
    preempts 5 0x60 0x40 = false ∧ preempts 6 0x80 0x40 = true ∧ preempts 6 0x60 0x40 = false ∧
    preempts 7 0x80 0 = false := by decide +kernel
theorem test_outputs : offered.irq 0 = true ∧ offered.fiq 0 = false ∧
    (withSpi 37 (line37 0 false) (ready 0xB)).fiq 0 = true ∧ (withSpi 37 (line37 0 false) (ready 0xB)).irq 0 = false := by
  decide +kernel

/- Steps. -/

/-- The state a step leads to, if it leads to one. -/
def stepped (s : State) : Option State :=
  match step s with
  | .next t => some t
  | .fault _ | .refused _ => none

/-- A Secure 32-bit read by CPU 0 at `addr`. -/
def readAt (addr : Nat) : Request := { cpu := 0, secure := true, dir := .rd, width := 32, addr := addr, data := 0 }

theorem test_step_runs_placed_access :
    (stepped (State.reset.withFetchWord 48 0x00000020_2104)).map (fun t => (t.spiOf 37).en) = some true ∧
    (stepped (State.reset.withFetchWord 16 0x0004)).map (fun t => t.rdata) = some (some 0x462) := by decide +kernel
theorem test_step_records_fault :
    (stepped { State.reset with inbox := [.access (readAt 0x100C)] }).map (fun t => (t.fault, t.rdata)) =
      some (some .unmappedOffset, none) := by decide +kernel
/-- F-11: a halted model takes no step. -/
theorem test_step_halted :
    step { State.reset with fault := some .eoiMismatch, inbox := [.access (readAt 0x1000)] } = .fault .eoiMismatch := by rfl
theorem test_rising_edge :
    ((withSpi 40 (fun l => { l with cfg := 3 }) State.reset).setLevelSpi 40 true |>.spiOf 40).latch1 = true ∧
    ((withSpi 40 (fun l => { l with cfg := 1 }) State.reset).setLevelSpi 40 true |>.spiOf 40).latch1 = false ∧
    ((State.reset.updPpi 1 (fun _ l => { l with cfg := 2 })).setLevelPpi 1 29 true |>.ppiOf 1 29).latch = true := by
  decide +kernel
theorem test_reset_keeps_levels :
    ((offered.resetUnder ResetDraw.zero).spiOf 37) = SpiLine.idle 0 true ∧
    ((claimed37.resetUnder ResetDraw.zero).ifOf 0).stk = [] := by decide +kernel

/- The driver (section I of spec/95 and S4 to S8). -/

/-- A driver that has read the type register of the reference parameters. -/
def world (s : State) : World :=
  { hw := s
    soft := { maxLines := 96, ncpus := 4, handlers := Vector.replicate 256 none, tracking := true,
              claims := Vector.replicate 8 [], lock := none, calls := [], log := [] }
    issued := [] }

/-- What a driver operation on CPU 0 returns, and the accesses it issued, oldest first. -/
def calls {α : Type} (self : CpuId) (p : Op α) (s : State) : Option (Option DriverError × List Instr) :=
  match p.run self (world s) with
  | .finished (.ok _) w => some (none, (w.issued.map Prod.snd).reverse)
  | .finished (.error e) w => some (some e, (w.issued.map Prod.snd).reverse)
  | .more _ _ | .waiting _ | .faulted _ _ | .refused _ _ => none

theorem test_driver_checks :
    calls 0 (enableLine 5) State.reset = some (some .unsupportedOperation, []) ∧
    calls 0 (enableLine 96) State.reset = some (some .invalidConfiguration, []) ∧
    calls 0 (setTarget 37 0x10) State.reset = some (some .invalidConfiguration, []) ∧
    calls 0 (setTarget 20 1) State.reset = some (some .unsupportedOperation, []) ∧
    calls 0 (sendSGI 0 16 .self 0) State.reset = some (some .invalidConfiguration, []) ∧
    calls 0 (sendSGI 0 2 .list 0) State.reset = some (some .invalidConfiguration, []) := by decide +kernel
theorem test_driver_reads :
    calls 0 (enableLine 37) (withSpi 37 (fun l => { l with cfg := 1 }) State.reset) =
      some (some .invalidConfiguration, [.rdIcdicfr 2, .rdIcdiptr 9]) ∧
    calls 0 (setTarget 37 0) (withSpi 37 (fun l => { l with cfg := 1 }) State.reset) =
      some (some .invalidConfiguration, [.rdIcdicfr 2]) ∧
    calls 0 (setTarget 37 0) State.reset = some (none, [.rdIcdicfr 2, .rdIcdiptr 9, .wrIcdiptr 9 0]) ∧
    calls 0 (setTriggerMode 37 .edge .model1N) (withSpi 37 (fun l => { l with en := true }) State.reset) =
      some (some .invalidConfiguration, [.rdIcdiser 1]) := by decide +kernel
theorem test_driver_words :
    calls 1 (sendSGI 1 7 .allOther 2) State.reset = some (none, [.wrIcdsgir 0x010D0007]) ∧
    calls 1 (sendSGI 1 2 .self 0xFF) State.reset = some (none, [.wrIcdsgir 0x02000002]) ∧
    calls 0 (setBinaryPoint .top2) State.reset = some (none, [.wrIccbpr 5]) ∧
    calls 0 (setPriority 37 0x5F) State.reset = some (none, [.rdIcdipr 9, .wrIcdipr 9 0x5000]) ∧
    calls 0 globalDisable State.reset = some (none, [.wrIcddcr 0]) ∧
    calls 0 (endOfInterrupt 0 ⟨36, 0, 0x24⟩) State.reset = some (some .unmatchedEndOfInterrupt, []) := by decide +kernel

/-- The accesses of a program whose reads answer `answers`, oldest first. -/
def script {α : Type} (p : Prog α) (soft : Soft) (answers : List Word) : List Instr :=
  match p with
  | .done _ => []
  | .rd i next =>
    match answers with
    | [] => [i]
    | w :: rest => i :: script (next w) soft rest
  | .wr i next => i :: script next soft answers
  | .look next => script (next soft) soft answers
  | .change f next => script next (f soft) answers
  | .acquire next => script next soft answers
  | .release next => script next soft answers

/-- Handler 1 lets a second `dispatch` in; handler 2 masks everything. -/
def handlers (h : Nat) (_ : PendingClaim) : Prog Unit :=
  if h = 1 then (dispatch (fun _ _ => .wr (.wrIccpmr 0) (.done ())) 0).bind fun _ => .done ()
  else .wr (.wrIccpmr 0) (.done ())

/-- S5, S6 and the corner case of R280: nothing after a spurious claim; one end of an unhandled one; a handler runs before
its interrupt is ended, and a nested `dispatch` ends its own first. -/
theorem test_dispatch :
    let soft := ((world State.reset).soft.setHandler 37 (some 1)).setHandler 38 (some 2)
    script (dispatch handlers 0) soft [0x3FF] = [.rdIcciar] ∧
    script (dispatch handlers 0) soft [0x3FE] = [.rdIcciar] ∧
    script (dispatch handlers 0) soft [0x24] = [.rdIcciar, .wrIcceoir 0x24] ∧
    script (dispatch handlers 0) soft [0x26] = [.rdIcciar, .wrIccpmr 0, .wrIcceoir 0x26] ∧
    script (dispatch handlers 0) soft [0x25, 0x26] =
      [.rdIcciar, .rdIcciar, .wrIccpmr 0, .wrIcceoir 0x26, .wrIcceoir 0x25] := by decide +kernel

/- Witnesses: for each obligation with hypotheses, a state and operands that meet them. -/

/-- CPU 0 runs the 1:N SPI 37 at priority 0; the rest is as after reset. -/
def nested : State :=
  (withSpi 37 (fun l => { l with cfg := 1, act1 := some 0 }) State.reset).updIf 0 (fun i => { i with stk := [⟨37, 0, 0⟩] })

theorem nested_spiOf (n : Nat) (h : 32 ≤ n) (h2 : n < 256) :
    nested.spiOf n = if n = 37 then { SpiLine.idle 0 false with cfg := 1, act1 := some 0 } else SpiLine.idle 0 false := by
  have hl : State.reset.spiOf n = SpiLine.idle 0 false := by
    rw [State.reset, afterReset_spiOf _ _ _ _ h2]
    simp [ResetDraw.zero, Levels.low]
  have hm : State.reset.par.maxl = 96 := rfl
  simp only [nested, withSpi, State.spiOf_updIf, State.spiOf_updSpi _ _ _ h, hl, hm]
  by_cases h3 : n = 37
  · simp [h3]
  · simp [h3]

theorem nested_sgiOf (c : CpuId) (n : Nat) : nested.sgiOf c n = SgiLine.idle := by
  simp [nested, withSpi, State.reset]

theorem nested_ppiOf (c : CpuId) (n : Nat) (h1 : 16 ≤ n) (h2 : n < 32) : nested.ppiOf c n = PpiLine.idle 0 false := by
  simp only [nested, withSpi, State.reset, State.ppiOf_updIf, State.ppiOf_updSpi, afterReset_ppiOf _ _ _ _ _ h1 h2]
  simp [ResetDraw.zero, Levels.low]

theorem nested_ifOf (c : CpuId) :
    nested.ifOf c = if c = 0 then { CpuIf.idle 0 0 with stk := [⟨37, 0, 0⟩] } else CpuIf.idle 0 0 := by
  simp [nested, withSpi, State.reset, ResetDraw.zero]

theorem nested_inv : nested.Inv where
  prioritiesTruncated := by
    intro c
    refine ⟨?_, ?_⟩
    · intro n hn
      have hm : nested.par.maxl = 96 := rfl
      unfold State.prio
      split
      · rw [nested_sgiOf]; rfl
      · split
        · rw [nested_ppiOf c n (by omega) (by omega)]; rfl
        · rw [nested_spiOf n (by omega) (by omega)]; split <;> rfl
    · rw [nested_ifOf]; split <;> rfl
  targetsImplemented := by
    intro n h1 h2
    have hm : nested.par.maxl = 96 := rfl
    rw [nested_spiOf n (by omega) (by omega)]; split <;> simp [SpiLine.idle]
  unusedCopyIdle := by
    intro n h1 h2
    have hm : nested.par.maxl = 96 := rfl
    rw [nested_spiOf n (by omega) (by omega)]
    split <;> simp [SpiLine.idle]
  stackMatchesActive := by
    intro c hc
    have hm : nested.par.maxl = 96 := rfl
    rw [nested_ifOf]
    refine ⟨by split <;> simp [CpuIf.idle], ?_⟩
    intro n src
    unfold State.ActiveOn
    by_cases h1 : n < 16
    · simp only [h1, if_true, nested_sgiOf]
      split
      · simp [SgiLine.idle]; omega
      · simp [SgiLine.idle, CpuIf.idle]
    · by_cases h2 : n < 32
      · simp only [h1, h2, if_true, if_false, nested_ppiOf c n (by omega) h2]
        split
        · simp [PpiLine.idle]; omega
        · simp [PpiLine.idle, CpuIf.idle]
      · simp only [h1, h2, if_false, hm]
        by_cases h3 : n < 96
        · rw [nested_spiOf n (by omega) (by omega)]
          by_cases h4 : n = 37
          · subst h4
            by_cases hc : c = 0
            · subst hc; simp [eq_comm]
            · simp [hc, CpuIf.idle, eq_comm]
          · by_cases hc : c = 0
            · subst hc; simp [h4, SpiLine.idle]; omega
            · simp [hc, h4, CpuIf.idle, SpiLine.idle]
        · simp only [h3, false_and, iff_false]
          split
          · simp; omega
          · simp [CpuIf.idle]
  stackNests := by
    intro c
    rw [nested_ifOf]
    split <;> simp [CpuIf.idle]


/-- A state with one access to come. -/
def placed (r : Request) (s : State) : State := { s with inbox := [.access r] }

theorem witness_ReadIdentification : (3 : Nat) < 4 := by decide

theorem witness_AssertedLevelStaysPending :
    (∃ t, exec (.wrIcdicpr 1 0x20) offered = .next t) ∧ 16 ≤ 37 ∧ 37 < offered.par.maxl ∧ offered.isLevel 0 37 = true ∧
    (offered.spiOf 37).level = true := ⟨⟨_, rfl⟩, by decide +kernel⟩
theorem witness_AssertedLevelStaysPending_ppi :
    let s := State.reset.setLevelPpi 0 16 true
    (∃ t, exec (.wrIcdicpr 0 0x10000) s = .next t) ∧ s.isLevel 0 16 = true ∧ (s.ppiOf 0 16).level = true :=
  ⟨⟨_, rfl⟩, by decide +kernel⟩

theorem reset_spi (n : Nat) (h2 : n < 256) : State.reset.spiOf n = SpiLine.idle 0 false := by
  rw [State.reset, afterReset_spiOf _ _ _ _ h2]
  simp [ResetDraw.zero, Levels.low]

/-- Every SPI of the reset state is disabled and idle: any configuration may be written. -/
theorem witness_WriteConfiguration :
    ∀ n, 16 ≤ n → n < State.reset.par.maxl → n / 16 = 2 →
      (0xC00 : Word).extractLsb' (2 * (n % 16)) 2 ≠ State.reset.cfgOf State.reset.cpu n →
      State.reset.en State.reset.cpu n = false ∧
      (32 ≤ n → (0xC00 : Word).getLsbD (2 * (n % 16)) ≠ (State.reset.cfgOf State.reset.cpu n).getLsbD 0 →
        State.reset.SpiIdle n) := by
  intro n _ h2 h3 _
  have hm : State.reset.par.maxl = 96 := rfl
  have h5 := reset_spi n (by omega)
  refine ⟨?_, fun _ _ => ?_⟩
  · simp [State.en, h5, SpiLine.idle, show ¬ n < 16 by omega, show ¬ n < 32 by omega]
  · unfold State.SpiIdle
    simp [h5, SpiLine.idle]

theorem witness_ConfigurationFaults_enabled :
    let s := withSpi 37 (fun l => { l with en := true }) State.reset
    16 ≤ 37 ∧ 37 < s.par.maxl ∧ 37 / 16 = 2 ∧ (0x800 : Word).extractLsb' (2 * (37 % 16)) 2 ≠ s.cfgOf s.cpu 37 ∧
    s.en s.cpu 37 = true := by decide +kernel
theorem witness_ConfigurationFaults_busy :
    let s := withSpi 40 (fun l => { l with cfg := 1, latch1 := true }) State.reset
    (∀ m, m < s.par.maxl → 16 ≤ m → m / 16 = 2 → (0 : Word).extractLsb' (2 * (m % 16)) 2 ≠ s.cfgOf s.cpu m →
      s.en s.cpu m = false) ∧
    (0 : Word).getLsbD (2 * (40 % 16)) ≠ (s.cfgOf s.cpu 40).getLsbD 0 ∧ ¬ s.SpiIdle 40 := by
  refine ⟨by decide +kernel, by decide +kernel, fun h => ?_⟩
  exact absurd h.1 (by decide +kernel)

theorem witness_SendSgi : (0x03000000 : Word).extractLsb' 24 2 = 3 ∧ (0x02000000 : Word).extractLsb' 24 2 ≠ 3 := by decide

theorem witness_ReadInterface : (State.reset.ifOf State.reset.cpu).stk = [] ∧
    (claimed37.ifOf claimed37.cpu).stk = ⟨37, 0, 0x40⟩ :: [] := by decide +kernel

theorem witness_WriteBinaryPoints :
    (State.reset.ifOf State.reset.cpu).bprWritten ≠ some ((2 : Word).extractLsb' 0 3) ∧
    (State.reset.ifOf State.reset.cpu).abprWritten ≠ some ((2 : Word).extractLsb' 0 3) := by decide +kernel
theorem witness_WriteBinaryPoints_again :
    ((State.reset.writeBpr true 2).ifOf 0).bprWritten = some ((0x102 : Word).extractLsb' 0 3) ∧
    ((0x102 : Word).extractLsb' 0 3).toNat < 3 ∧ ((State.reset.writeBpr true 2).ifOf 0).bpr = 3 ∧
    ((State.reset.writeAbpr false 2).ifOf 0).abprWritten = some ((0x102 : Word).extractLsb' 0 3) ∧
    ((State.reset.writeAbpr false 2).ifOf 0).abpr = (0x102 : Word).extractLsb' 0 3 := by decide +kernel

theorem witness_BinaryPointGroupings : (0xA0 : Byte) &&& 0x0F = 0 ∧ ((ready 0x1F).ifOf 0).icr.sbpr = true ∧
    ((ready 3).ifOf 0).icr.sbpr = false := by decide +kernel

theorem witness_AcknowledgeCases : (ready 3).cand 0 = [] ∧ offered.cand 0 = [⟨37, 0, 0x40⟩] ∧
    offered.signalOk 0 ⟨37, 0, 0x40⟩ = true ∧ offered.grp 0 37 = .g0 := by decide +kernel
theorem witness_AcknowledgeCases_masked :
    (withSpi 37 (line37 0xF0 false) (ready 3)).cand 0 = [⟨37, 0, 0xF0⟩] ∧
    (withSpi 37 (line37 0xF0 false) (ready 3)).signalOk 0 ⟨37, 0, 0xF0⟩ = false ∧
    (withSpi 37 (line37 0 true) (ready 3)).cand 0 = [⟨37, 0, 0⟩] ∧
    (withSpi 37 (line37 0 true) (ready 3)).grp 0 37 = .g1 := by decide +kernel

theorem witness_ActiveIsNotForwarded : (withSgi 0 2 1 offered).cand 0 = [⟨2, 1, 0⟩, ⟨37, 0, 0x40⟩] := by decide +kernel
theorem witness_ActiveIsNotForwarded_more :
    ((withSpi 40 (fun l => { line37 0 false l with cfg := 0 }) (ready 3)).updPpi 0
      (fun n l => if n = 29 then { l with en := true, latch := true } else l)).cand 0 = [⟨29, 0, 0⟩, ⟨40, 0, 0⟩] := by
  decide +kernel

theorem witness_EndOfInterrupt :
    (claimed37.ifOf claimed37.cpu).stk = ⟨37, 0, 0x40⟩ :: [] ∧ ((0x25 : Word).extractLsb' 0 10).toNat = 37 ∧
    ((0x25 : Word).extractLsb' 10 3).toNat = 0 := by decide +kernel
theorem witness_EndOfInterrupt_sgi :
    let s := (withSgi 0 15 3 (ready 3)).acknowledge false 0
    (s.ifOf s.cpu).stk = ⟨15, 3, 0⟩ :: [] ∧ ((0xC0F : Word).extractLsb' 0 10).toNat = 15 ∧
    ((0xC0F : Word).extractLsb' 10 3).toNat = (3 : CpuId).val := by decide +kernel

theorem witness_EndOfInterrupt_mismatch :
    ∀ e rest, (claimed37.ifOf claimed37.cpu).stk = e :: rest →
      ¬ (((0x425 : Word).extractLsb' 0 10).toNat = e.id ∧
        ((0x425 : Word).extractLsb' 10 3).toNat = (if e.id < 16 then e.src.val else 0)) := by
  intro e rest h
  have h2 : (claimed37.ifOf claimed37.cpu).stk = ⟨37, 0, 0x40⟩ :: [] := by decide +kernel
  rw [h2] at h
  cases h
  decide

theorem witness_ClaimIsEndedByItsOwnValue :
    (offered.acknowledge false 0).rdata = some 0x25 ∧ (0x25 : Word) ≠ 1023 ∧ (0x25 : Word) ≠ 1022 := by decide +kernel

theorem witness_LevelEvents_ppi :
    let s := { State.reset with inbox := [.setLevelPpi 3 31 true, .reset] }
    s.fault = none ∧ s.refused = false ∧ s.inbox = .setLevelPpi 3 31 true :: [.reset] ∧ 16 ≤ 31 ∧ 31 < 32 ∧
    (3 : CpuId).val < s.par.ncpu := by decide
theorem witness_LevelEvents_spi :
    let s := { State.reset with inbox := [.setLevelSpi 95 true] }
    s.fault = none ∧ s.refused = false ∧ s.inbox = .setLevelSpi 95 true :: [] ∧ 32 ≤ 95 ∧ 95 < s.par.maxl := by decide
theorem witness_ResetEvent :
    { State.reset with fault := some .eoiMismatch, inbox := [.reset] }.inbox = .reset :: [] ∧
    { offered with inbox := [.reset] }.inbox = .reset :: [] := ⟨rfl, rfl⟩

/-- A write of ICCEOIR by CPU 0. -/
def eoiRequest : Request := { cpu := 0, secure := true, dir := .wr, width := 32, addr := 0x110, data := 0x25 }

theorem witness_StepRunsDecodedInstruction :
    let s := placed (readAt 0x100) State.reset
    s.inbox = .access (readAt 0x100) :: [] ∧ s.fault = none ∧ s.refused = false ∧ (readAt 0x100).cpu.val < s.par.ncpu ∧
    (readAt 0x100).secure = true ∧ windowOf s.par (readAt 0x100).addr = some (.cpuif, 0) ∧
    decodeAccess .rd .cpuif 0 32 0 = .ok .rdIccicr ∧
    ∃ t, exec .rdIccicr (State.start { s with inbox := [] } 0 .rdIccicr) = .next t :=
  ⟨rfl, rfl, rfl, by decide, rfl, by decide +kernel, by decide, ⟨_, rfl⟩⟩
theorem witness_StepRunsDecodedInstruction_fault :
    let s := placed eoiRequest State.reset
    s.inbox = .access eoiRequest :: [] ∧ windowOf s.par eoiRequest.addr = some (.cpuif, 0x10) ∧
    decodeAccess .wr .cpuif 0x10 32 0x25 = .ok (.wrIcceoir 0x25) ∧
    exec (.wrIcceoir 0x25) (State.start { s with inbox := [] } 0 (.wrIcceoir 0x25)) = .fault .eoiMismatch :=
  ⟨rfl, by decide +kernel, by decide, by rfl⟩

theorem witness_RequestReachesItsRegister :
    Config.reference.legal = true ∧ (Instr.wrIcdipr 63 0xFFFFFFFF).wellFormed = true ∧ (3 : CpuId).val < Config.reference.ncpu := by
  decide +kernel

theorem witness_DecodeFaults_width : (8 : Nat) ≠ 32 ∧ (0x402 : BitVec 12).toNat % 4 ≠ 0 := by decide
/-- No register of the map is at offset 0x00C of the Distributor. -/
theorem witness_DecodeFaults_unmapped :
    ∀ i : Instr, i.wellFormed = true → ¬ (i.win = .dist ∧ i.off = (0x00C : BitVec 12).toNat) := by
  intro i _
  cases i <;> simp [Instr.win, Instr.off, Instr.place] <;> omega
/-- ICDICTR is only read. -/
theorem witness_DecodeFaults_direction :
    (∀ i : Instr, i.wellFormed = true → ¬ (i.dir = .wr ∧ i.win = .dist ∧ i.off = (0x004 : BitVec 12).toNat)) ∧
    ∃ i : Instr, i.wellFormed = true ∧ i.win = .dist ∧ i.off = (0x004 : BitVec 12).toNat := by
  refine ⟨?_, .rdIcdictr, by decide, by decide, by decide⟩
  intro i _
  cases i <;> simp [Instr.dir, Instr.win, Instr.off, Instr.place] <;> omega

/-- The decode error of the access `r` of the reference parameters, at a place in a window. -/
def errorAt (r : Request) : Option DecodeError :=
  match windowOf Config.reference r.addr with
  | some (win, off) =>
    match decodeAccess r.dir win off r.width r.data with
    | .error e => some e
    | .ok _ => none
  | none => none
theorem witness_DecodeFaults_step :
    (∀ r : Request, (placed r State.reset).inbox = .access r :: []) ∧ State.reset.fault = none ∧
    State.reset.refused = false ∧ State.reset.par = Config.reference ∧
    (readAt 0x100C).cpu.val < State.reset.par.ncpu ∧ (readAt 0x100C).secure = true ∧
    errorAt (readAt 0x100C) = some .unmappedOffset ∧ errorAt (readAt 0x1002) = some .badWidthOrAlignment ∧
    errorAt { readAt 0x1004 with dir := .wr } = some .writeToReadOnly ∧ errorAt (readAt 0x110) = some .readOfWriteOnly :=
  ⟨fun _ => rfl, rfl, rfl, rfl, by decide +kernel⟩

/-- A Non-secure read, with another access after it. -/
theorem witness_NonsecureIsRefused :
    let r := { readAt 0x1000 with secure := false }
    let s := { State.reset with inbox := [.access r, .access (readAt 0x1000)] }
    s.inbox = .access r :: [.access (readAt 0x1000)] ∧ s.fault = none ∧ s.refused = false ∧ r.cpu.val < s.par.ncpu ∧
    r.secure = false ∧ windowOf s.par r.addr ≠ none := ⟨rfl, rfl, rfl, by decide, rfl, by decide +kernel⟩

theorem witness_FaultIsRecordedAndHalts :
    ∃ t, (placed (readAt 0x100C) State.reset).fault = none ∧ step (placed (readAt 0x100C) State.reset) = .next t ∧
      t.fault = some .unmappedOffset ∧ t.inbox = [] := ⟨_, rfl, rfl, rfl, rfl⟩

theorem witness_NothingReachesTheBlock :
    State.reset.fault = none ∧ State.reset.refused = false ∧ State.reset.inbox = [] ∧
    (placed (readAt 0x2000) State.reset).inbox = .access (readAt 0x2000) :: [] ∧
    windowOf State.reset.par (readAt 0x2000).addr = none := ⟨rfl, rfl, rfl, rfl, by decide +kernel⟩

theorem witness_DecodeOfEncode : (Instr.wrIcdicfr 15 0xFFFFFFFF).wellFormed = true ∧ (Instr.rdCidr 3).wellFormed = true := by
  decide
theorem witness_DecodeIsExact : decodeAccess .wr .dist 0x8FC 32 0xF = .ok (.wrIcdiptr 63 0xF) := by decide

theorem witness_MasksPartitionTheWord : (36 : Nat) ≠ 39 ∧ wordIndex 36 .d4 = wordIndex 39 .d4 := by decide
theorem witness_FieldPutGet : (37 : Nat) ≠ 36 ∧ wordIndex 37 .d4 = wordIndex 36 .d4 := by decide

theorem witness_StepKeepsInvariant :
    { nested with inbox := [.access eoiRequest] }.Inv ∧ ∃ t, step { nested with inbox := [.access eoiRequest] } = .next t :=
  ⟨⟨nested_inv.1, nested_inv.2, nested_inv.3, nested_inv.4, nested_inv.5⟩, _, rfl⟩
theorem witness_NestingIsBounded : nested.Inv := nested_inv
theorem witness_OneNIsExclusive :
    nested.Inv ∧ (0 : CpuId).val < nested.par.ncpu ∧ (⟨37, 0, 0⟩ : Entry) ∈ (nested.ifOf 0).stk ∧ 32 ≤ 37 ∧
    (nested.spiOf 37).cfg.getLsbD 0 = true := ⟨nested_inv, by decide +kernel⟩
theorem witness_NeverSignalled :
    nested.Inv ∧ (⟨36, 0, 0xF0⟩ : Entry).prio = 0xF0 ∧
    ∃ x ∈ (nested.ifOf 0).stk, nested.gp 0 (nested.grp 0 (⟨36, 0, 0xF0⟩ : Entry).id) x.prio = 0 :=
  ⟨nested_inv, rfl, ⟨37, 0, 0⟩, by decide +kernel⟩

theorem witness_ReadPending : Instr.rdIcdicpr 31 = .rdIcdispr 31 ∨ Instr.rdIcdicpr 31 = .rdIcdicpr 31 := .inr rfl
theorem witness_ReadsHaveNoSideEffect : Instr.rdIcchpir.dir = .rd ∧ Instr.rdIcchpir ≠ .rdIcciar := by decide
theorem witness_WritesAreIdempotent :
    Instr.wrIcdispr 1 0x20 ∈ [Instr.wrIcdiser 1 0x20, .wrIcdicer 1 0x20, .wrIcdispr 1 0x20, .wrIcdicpr 1 0x20,
      .wrIcdisr 1 0x20, .wrIcdipr 1 0x20, .wrIcdiptr 1 0x20, .wrIcdicfr 1 0x20, .wrIcddcr 0x20, .wrIccicr 0x20,
      .wrIccpmr 0x20, .wrIccbpr 0x20, .wrIccabpr 0x20] ∧ (∃ t, exec (.wrIcdispr 1 0x20) offered = .next t) ∧
    ∃ t, exec (.wrIccbpr 0x20) offered = .next t :=
  ⟨by decide, ⟨_, rfl⟩, _, rfl⟩
theorem witness_WritesAreIdempotent_configuration : ∃ t, exec (.wrIcdicfr 2 0xC00) State.reset = .next t := by
  have h1 : State.reset.changesEnabled 2 0xC00 = false := by decide +kernel
  have h2 : State.reset.changesBusyModel 2 0xC00 = false := by decide +kernel
  exact ⟨State.reset.writeCfg 2 0xC00, by simp only [exec, execWrIcdicfr, h1, h2, Bool.false_eq_true, if_false]⟩
theorem witness_BankedStateIsPrivate :
    (∃ t, exec (.wrIcdsgir 0x01000002) State.reset = .next t) ∧ (1 : CpuId) ≠ State.reset.cpu ∧
    (∃ t, exec (.wrIcdipr 0 0xF0) State.reset = .next t) := ⟨⟨_, rfl⟩, by decide, ⟨_, rfl⟩⟩
theorem witness_AccessesLeaveTheOutsideAlone : ∃ t, exec .rdIcciar offered = .next t := ⟨_, rfl⟩

theorem witness_EnableLineRefusals :
    let w := world (withSpi 37 (fun l => { l with cfg := 1 }) State.reset)
    w.hw.fault = none ∧ w.hw.refused = false ∧ w.soft.maxLines = w.hw.par.maxl ∧ w.hw.par.maxl ≤ 96 ∧ 5 < 16 ∧
    32 ≤ 37 ∧ 37 < w.hw.par.maxl ∧ (w.hw.spiOf 37).cfg.getLsbD 0 = true ∧ (w.hw.spiOf 37).tgt = 0 := by decide +kernel
theorem witness_SetPriorityTouchesOneLine :
    (world nested).hw.fault = none ∧ (world nested).hw.refused = false ∧ (world nested).soft.lock = none ∧
    (world nested).soft.maxLines = (world nested).hw.par.maxl ∧ (world nested).hw.PrioritiesTruncated ∧ 32 ≤ 95 ∧
    95 < (world nested).hw.par.maxl := ⟨rfl, rfl, rfl, rfl, nested_inv.1, by decide, by decide +kernel⟩
theorem witness_DispatchOutcomes :
    (world (ready 3)).hw.fault = none ∧ (world (ready 3)).hw.refused = false ∧
    ((world (ready 3)).hw.start 0 .rdIcciar).cand 0 = [] := by
  refine ⟨rfl, rfl, ?_⟩
  show (ready 3).cand 0 = []
  decide +kernel

/-- `offered` to a CPU whose run of late answers is over. -/
def patient : State := { offered with ackRun := Vector.replicate 8 ⟨0, Config.drawLateRun 0 + 1⟩ }

/-- A driver without shadow stacks, with handler 1 for ID 37, on that block. -/
def patientWorld (handler : Option Nat) : World :=
  { world patient with soft := { (world patient).soft.setHandler 37 handler with tracking := false } }

theorem patient_claims :
    ∃ t, exec .rdIcciar (patient.start 0 .rdIcciar) = .next t ∧ t.rdata = some 0x25 ∧ t.fault = none ∧ t.refused = false ∧
      (t.ifOf 0).stk = ⟨37, 0, 0x40⟩ :: ((patient.start 0 .rdIcciar).ifOf 0).stk := by
  have hl : (patient.start 0 .rdIcciar).late = false := by
    rw [State.start, (State.forward_ack (patient.begin 0) 0).1]
    simp [patient, LateRun.late, LateRun.start]
  have h1 : (patient.start 0 .rdIcciar).cand 0 = [⟨37, 0, 0x40⟩] := by
    show offered.cand 0 = _
    decide +kernel
  have h2 : (patient.start 0 .rdIcciar).signalOk 0 ⟨37, 0, 0x40⟩ = true := by
    show offered.signalOk 0 ⟨37, 0, 0x40⟩ = true
    decide +kernel
  have h3 : (patient.start 0 .rdIcciar).grp 0 37 = .g0 := by
    show offered.grp 0 37 = .g0
    decide +kernel
  have h4 : ∀ tie, (patient.start 0 .rdIcciar).hppi 0 tie = some ⟨37, 0, 0x40⟩ := by
    intro tie
    simp [State.hppi, h1, leastOf, minPrio, Nat.mod_one]
  have hc : (patient.start 0 .rdIcciar).cpu = 0 := rfl
  refine ⟨((patient.start 0 .rdIcciar).claim 0 ⟨37, 0, 0x40⟩).ret 0x25, ?_, rfl, rfl, rfl, ?_⟩
  · show Host.Outcome.next _ = _
    unfold State.acknowledge
    rw [hl, hc, h4]
    simp only [h2, h3, Bool.false_eq_true, Bool.true_eq_false, reduceCtorEq, if_false, false_and]
    rfl
  · show (((patient.start 0 .rdIcciar).claim 0 ⟨37, 0, 0x40⟩).ifOf 0).stk = _
    rw [State.claim_stk, if_pos rfl]

/-- A claim with no handler; and one whose handler does nothing, and so leaves the stack as it is. -/
theorem witness_DispatchOutcomes_claimed :
    (patientWorld none).hw = patient ∧ (patientWorld none).hw.fault = none ∧ (patientWorld none).hw.refused = false ∧
    (patientWorld none).soft.tracking = false ∧ (patientWorld none).soft.handlerOf 37 = none ∧
    (patientWorld (some 1)).hw = patient ∧ (patientWorld (some 1)).soft.tracking = false ∧
    (patientWorld (some 1)).soft.handlerOf 37 = some 1 ∧
    ∀ w : World, (Prog.done ()).run 0 w = .finished () w :=
  ⟨rfl, rfl, rfl, rfl, by decide +kernel, rfl, rfl, by decide +kernel, fun _ => rfl⟩

/-- SPI 37 of Group 1 is offered to CPU 0, whose AckCtl is 0: an acknowledge answers 1022, or late 1023, and claims
nothing, so that acknowledges can go on for ever. -/
def endless (r : Option Word) (d : Nat) (l : Bool) (a p : Vector LateRun 8) : State :=
  { withSpi 37 (line37 0 true) (ready 3) with rdata := r, draws := d, late := l, ackRun := a, peekRun := p }

theorem endless_hppi (r : Option Word) (d : Nat) (l : Bool) (a p : Vector LateRun 8) (tie : Nat) :
    (endless r d l a p).hppi 0 tie = some ⟨37, 0, 0⟩ ∧ (endless r d l a p).signalOk 0 ⟨37, 0, 0⟩ = true := by
  have h1 : (endless r d l a p).cand 0 = [⟨37, 0, 0⟩] := by
    have h : (endless r d l a p).cand 0 = (withSpi 37 (line37 0 true) (ready 3)).cand 0 := rfl
    rw [h]
    decide +kernel
  have h2 : (endless r d l a p).signalOk 0 ⟨37, 0, 0⟩ = (withSpi 37 (line37 0 true) (ready 3)).signalOk 0 ⟨37, 0, 0⟩ := rfl
  refine ⟨?_, by rw [h2]; decide +kernel⟩
  simp [State.hppi, h1, leastOf, minPrio, Nat.mod_one]

theorem endless_acknowledge (r : Option Word) (d : Nat) (l : Bool) (a p : Vector LateRun 8) (tie : Nat) :
    ∃ w, (endless r d l a p).acknowledge l tie = endless (some w) d l a p := by
  obtain ⟨h1, h2⟩ := endless_hppi r d l a p tie
  have h3 : (endless r d l a p).grp 0 37 = (withSpi 37 (line37 0 true) (ready 3)).grp 0 37 := rfl
  have h4 : ((endless r d l a p).ifOf 0).icr = ((withSpi 37 (line37 0 true) (ready 3)).ifOf 0).icr := rfl
  have h5 : (withSpi 37 (line37 0 true) (ready 3)).grp 0 37 = .g1 := by decide +kernel
  have h6 : ((withSpi 37 (line37 0 true) (ready 3)).ifOf 0).icr.ackCtl = false := by decide +kernel
  cases l with
  | true => exact ⟨_, rfl⟩
  | false =>
    refine ⟨groupOneId, ?_⟩
    have hc : (endless r d false a p).cpu = 0 := rfl
    unfold State.acknowledge
    rw [hc, h1]
    simp only [h2, h3, h4, h5, h6, Bool.false_eq_true, Bool.true_eq_false, if_false, if_true, and_self]
    rfl

/-- In such a state every acknowledge and every highest-pending read is performed, finds the interrupt, and leads to such
a state again. -/
theorem endless_step (r : Option Word) (d : Nat) (l : Bool) (a p : Vector LateRun 8) :
    (((endless r d l a p).receive [.access (readAt 0x10C)]).Performs 0 .rdIcciar ∧
      ∃ r' d' l' a' p', step ((endless r d l a p).receive [.access (readAt 0x10C)]) = .next (endless r' d' l' a' p')) ∧
    (((endless r d l a p).receive [.access (readAt 0x118)]).Performs 0 .rdIcchpir ∧
      ∃ r' d' l' a' p', step ((endless r d l a p).receive [.access (readAt 0x118)]) = .next (endless r' d' l' a' p')) ∧
    (endless r d l a p).Claimable 0 ∧ (endless r d l a p).Offered 0 := by
  have h1 : admissionOf (endless r d l a p).par (readAt 0x10C) = .admitted .rdIcciar := by
    show admissionOf Config.reference (readAt 0x10C) = _; decide +kernel
  have h2 : admissionOf (endless r d l a p).par (readAt 0x118) = .admitted .rdIcchpir := by
    show admissionOf Config.reference (readAt 0x118) = _; decide +kernel
  obtain ⟨h3, h4⟩ := endless_hppi none (d + 1) l a p (Config.drawTie (d + 1))
  let b := (endless none (d + 1) l a p).forward .rdIcciar
  let q := (endless none (d + 1) l a p).forward .rdIcchpir
  obtain ⟨w, hw⟩ := endless_acknowledge none (d + 1) b.late b.ackRun p (Config.drawTie (d + 1))
  refine ⟨⟨⟨_, [], rfl, rfl, h1, rfl⟩, some w, d + 1, b.late, b.ackRun, p, ?_⟩,
    ⟨⟨_, [], rfl, rfl, h2, rfl⟩, some (q.highestPending q.late (Config.drawTie (d + 1))), d + 1, q.late, a, q.peekRun, ?_⟩,
    ⟨_, h3, h4⟩, ⟨_, h3⟩⟩
  · rw [← hw]
    show performAccess (readAt 0x10C) (endless r d l a p) = _
    unfold performAccess
    rw [h1]
    rfl
  · show performAccess (readAt 0x118) (endless r d l a p) = _
    unfold performAccess
    rw [h2]
    rfl

/-- An acknowledge at every even step, a highest-pending read at every odd one. -/
def arrivals (k : Nat) : List Event := [.access (readAt (if k % 2 = 0 then 0x10C else 0x118))]

/-- The execution those make. -/
def endlessRun : Nat → State
  | 0 => endless none 0 false (Vector.replicate 8 LateRun.idle) (Vector.replicate 8 LateRun.idle)
  | k + 1 =>
    match step ((endlessRun k).receive (arrivals k)) with
    | .next t => t
    | .fault _ | .refused _ => endlessRun k

theorem endlessRun_form (k : Nat) : ∃ r d l a p, endlessRun k = endless r d l a p := by
  induction k with
  | zero => exact ⟨_, _, _, _, _, rfl⟩
  | succ k ih =>
    obtain ⟨r, d, l, a, p, h⟩ := ih
    obtain ⟨⟨-, r1, d1, l1, a1, p1, h1⟩, ⟨-, r2, d2, l2, a2, p2, h2⟩, -⟩ := endless_step r d l a p
    rw [endlessRun, h, arrivals]
    split
    · rename_i t ht
      split at ht
      · rw [h1] at ht; cases ht; exact ⟨_, _, _, _, _, rfl⟩
      · rw [h2] at ht; cases ht; exact ⟨_, _, _, _, _, rfl⟩
    all_goals exact ⟨_, _, _, _, _, rfl⟩

theorem witness_ForwardingIsFair :
    Execution endlessRun arrivals ∧ (∀ k, (endlessRun k).Claimable 0 ∧ (endlessRun k).Offered 0) ∧
    (∀ m, ∃ k, m ≤ k ∧ ((endlessRun k).receive (arrivals k)).Performs 0 .rdIcciar) ∧
    (∀ m, ∃ k, m ≤ k ∧ ((endlessRun k).receive (arrivals k)).Performs 0 .rdIcchpir) := by
  refine ⟨?_, ?_, ?_, ?_⟩
  · intro k
    obtain ⟨r, d, l, a, p, h⟩ := endlessRun_form k
    obtain ⟨⟨-, r1, d1, l1, a1, p1, h1⟩, ⟨-, r2, d2, l2, a2, p2, h2⟩, -⟩ := endless_step r d l a p
    rw [endlessRun, h, arrivals]
    split
    · rw [h1]
    · rw [h2]
  · intro k
    obtain ⟨r, d, l, a, p, h⟩ := endlessRun_form k
    rw [h]
    exact (endless_step r d l a p).2.2
  · intro m
    obtain ⟨r, d, l, a, p, h⟩ := endlessRun_form (2 * m)
    refine ⟨2 * m, by omega, ?_⟩
    rw [h, arrivals, if_pos (by omega)]
    exact (endless_step r d l a p).1.1
  · intro m
    obtain ⟨r, d, l, a, p, h⟩ := endlessRun_form (2 * m + 1)
    refine ⟨2 * m + 1, by omega, ?_⟩
    rw [h, arrivals, if_neg (by omega)]
    exact (endless_step r d l a p).2.1.1

end Sys2Proof.Tests
end

section
/-! The frame of every access (spec/00 R7, spec/10 R46, R52, R57): what lies outside the registers. An access writes the
Distributor's enables, lines and interfaces only; of the lines it never writes an input level, nor anything of an ID at
or above `MAXL`. Each update of the state keeps this frame, and every access is a chain of such updates. -/

namespace Sys2Proof.Machine

/- What an access that completes has found and done: the guards it passed, and the state it leaves. -/

/-- R240: an acknowledge returns a value and nothing more, or claims the encoder's choice. -/
theorem State.acknowledge_cases (s : State) (late : Bool) (tie : Nat) :
    (∃ w, s.acknowledge late tie = s.ret w) ∨
    ∃ e, late = false ∧ s.hppi s.cpu tie = some e ∧ s.signalOk s.cpu e = true ∧
      ¬ (s.grp s.cpu e.id = .g1 ∧ (s.ifOf s.cpu).icr.ackCtl = false) ∧
      s.acknowledge late tie = (s.claim s.cpu e).ret (claimWord e.id e.src) := by
  cases late with
  | true => exact .inl ⟨_, rfl⟩
  | false =>
    cases hp : s.hppi s.cpu tie with
    | none => exact .inl ⟨spuriousId, by simp [State.acknowledge, hp]⟩
    | some e =>
      by_cases hs : s.signalOk s.cpu e = false
      · exact .inl ⟨spuriousId, by simp [State.acknowledge, hp, hs]⟩
      by_cases hg : s.grp s.cpu e.id = .g1 ∧ (s.ifOf s.cpu).icr.ackCtl = false
      · exact .inl ⟨groupOneId, by simp [State.acknowledge, hp, hs, hg]⟩
      · exact .inr ⟨e, rfl, rfl, by simpa using hs, hg, by simp [State.acknowledge, hp, hs, if_neg hg]⟩

/-- R242: an end-of-interrupt that completes names the top of the active stack, and releases it. -/
theorem execWrIcceoir_next {v : Word} {s t : State} (h : execWrIcceoir v s = .next t) :
    ∃ e, s.top s.cpu = some e ∧ claimId v = e.id ∧ (e.id < 16 → claimSrc v = e.src.val) ∧
      (16 ≤ e.id → claimSrc v = 0) ∧ t = s.release s.cpu e := by
  unfold execWrIcceoir at h
  cases htop : s.top s.cpu with
  | none => simp [htop] at h
  | some e =>
    simp only [htop] at h
    split_ifs at h with hid hsgi hother
    exact ⟨e, rfl, by simpa using hid, by simpa using hsgi, by simpa using hother, by simpa using h.symm⟩

/-- R206: a write of ICDICFR that completes passes both checks, and writes every field. -/
theorem execWrIcdicfr_next {k : Nat} {v : Word} {s t : State} (h : execWrIcdicfr k v s = .next t) :
    s.changesEnabled k v = false ∧ s.changesBusyModel k v = false ∧ t = s.writeCfg k v := by
  unfold execWrIcdicfr at h
  split_ifs at h with hen hbusy
  exact ⟨by simpa using hen, by simpa using hbusy, by simpa using h.symm⟩

/-- R220: a write of ICDSGIR that completes has a target set, and sends to it. -/
theorem execWrIcdsgir_next {v : Word} {s t : State} (h : execWrIcdsgir v s = .next t) :
    ∃ targets, sgiTargets s.par s.cpu v = some targets ∧ t = s.sendSgi v targets := by
  unfold execWrIcdsgir at h
  cases htg : sgiTargets s.par s.cpu v with
  | none => simp [htg] at h
  | some targets => exact ⟨targets, rfl, by simpa [htg] using h.symm⟩

/- The input level of a line under each change of it (R46). -/

@[simp] theorem PpiLine.claimed_level (l : PpiLine) : l.claimed.level = l.level := rfl

@[simp] theorem SpiLine.latched_level (l : SpiLine) (p : Params) : (l.latched p).level = l.level := by
  unfold SpiLine.latched
  split <;> rfl

@[simp] theorem SpiLine.unlatched_level (l : SpiLine) (p : Params) : (l.unlatched p).level = l.level := rfl

@[simp] theorem SpiLine.claimed_level (l : SpiLine) (c : CpuId) : (l.claimed c).level = l.level := by
  unfold SpiLine.claimed
  split <;> rfl

@[simp] theorem SpiLine.released_level (l : SpiLine) (c : CpuId) : (l.released c).level = l.level := rfl

/-- A field that an update keeps, a guarded update keeps. -/
theorem keeps_ite {α β : Type} {p : Prop} [Decidable p] (field : α → β) {new old : α}
    (h : field new = field old) : field (if p then new else old) = field old := by
  rw [apply_ite field, h, ite_self]

/-- `t` is `s` but for what an access may write: the Distributor's enables, the lines without their input levels and
below `MAXL`, the CPU interfaces, and the returned value. -/
structure State.SameOutside (s t : State) : Prop where
  fields : t = { s with
    dcrEn0 := t.dcrEn0, dcrEn1 := t.dcrEn1, bank := t.bank, spi := t.spi, cpuIf := t.cpuIf, rdata := t.rdata }
  ppiLevel : ∀ (c : CpuId) n, 16 ≤ n → n < 32 → (t.ppiOf c n).level = (s.ppiOf c n).level
  spiLevel : ∀ n, 32 ≤ n → (t.spiOf n).level = (s.spiOf n).level
  spiAboveMaxl : ∀ n, s.par.maxl ≤ n → t.spiOf n = s.spiOf n

namespace State.SameOutside

variable {s t : State}

theorem refl (s : State) : s.SameOutside s := ⟨rfl, fun _ _ _ _ => rfl, fun _ _ => rfl, fun _ _ => rfl⟩

theorem par_eq (h : s.SameOutside t) : t.par = s.par := by rw [h.fields]

theorem ret (h : s.SameOutside t) (v : Word) : s.SameOutside (t.ret v) where
  fields := congrArg (fun u : State => u.ret v) h.fields
  ppiLevel := h.ppiLevel
  spiLevel := h.spiLevel
  spiAboveMaxl := h.spiAboveMaxl

theorem updIf (h : s.SameOutside t) (c : CpuId) (f : CpuIf → CpuIf) : s.SameOutside (t.updIf c f) where
  fields := congrArg (fun u : State => { u with cpuIf := (t.updIf c f).cpuIf }) h.fields
  ppiLevel := h.ppiLevel
  spiLevel := h.spiLevel
  spiAboveMaxl := h.spiAboveMaxl

theorem updSgis (h : s.SameOutside t) (f : CpuId → Nat → SgiLine → SgiLine) : s.SameOutside (t.updSgis f) where
  fields := congrArg (fun u : State => { u with bank := (t.updSgis f).bank }) h.fields
  ppiLevel c n h1 h2 := by rw [State.ppiOf_updSgis, h.ppiLevel c n h1 h2]
  spiLevel := h.spiLevel
  spiAboveMaxl := h.spiAboveMaxl

theorem updSgi (h : s.SameOutside t) (c : CpuId) (f : Nat → SgiLine → SgiLine) : s.SameOutside (t.updSgi c f) :=
  h.updSgis _

theorem updPpi (h : s.SameOutside t) (c : CpuId) {f : Nat → PpiLine → PpiLine}
    (hf : ∀ n l, (f n l).level = l.level) : s.SameOutside (t.updPpi c f) where
  fields := congrArg (fun u : State => { u with bank := (t.updPpi c f).bank }) h.fields
  ppiLevel c2 n h1 h2 := by
    rw [State.ppiOf_updPpi t c f c2 n h1 h2, keeps_ite PpiLine.level (hf _ _), h.ppiLevel c2 n h1 h2]
  spiLevel := h.spiLevel
  spiAboveMaxl := h.spiAboveMaxl

theorem updSpi (h : s.SameOutside t) {f : Nat → SpiLine → SpiLine}
    (hf : ∀ n l, (f n l).level = l.level) : s.SameOutside (t.updSpi f) where
  fields := congrArg (fun u : State => { u with spi := (t.updSpi f).spi }) h.fields
  ppiLevel := h.ppiLevel
  spiLevel n hn := by rw [State.spiOf_updSpi t f n hn, keeps_ite SpiLine.level (hf _ _), h.spiLevel n hn]
  spiAboveMaxl n hn := by
    have hm := maxl_bounds s.par
    rw [State.spiOf_updSpi t f n (by omega), h.par_eq, if_neg (by omega), h.spiAboveMaxl n hn]

/-- An access that answers `.next` of such a state leaves that state. -/
theorem of_next {u : State} (h : (.next u : Host.Outcome State Fault Refusal) = .next t)
    (hu : s.SameOutside u) : s.SameOutside t := by
  cases h
  exact hu

end State.SameOutside

/-- R307: a claim writes the claimed line and the claimer's stack. -/
theorem State.claim_sameOutside (s : State) (c : CpuId) (e : Entry) : s.SameOutside (s.claim c e) := by
  refine .updIf ?_ c _
  unfold State.claimLine
  split_ifs
  · exact .updSgi (.refl s) c _
  · exact .updPpi (.refl s) c fun _ l => keeps_ite PpiLine.level l.claimed_level
  · exact .updSpi (.refl s) fun _ l => keeps_ite SpiLine.level (l.claimed_level c)

/-- R308: a release writes the released line and the releaser's stack. -/
theorem State.release_sameOutside (s : State) (c : CpuId) (e : Entry) : s.SameOutside (s.release c e) := by
  refine .updIf ?_ c _
  unfold State.releaseLine
  split_ifs
  · exact .updSgi (.refl s) c _
  · exact .updPpi (.refl s) c fun _ _ => keeps_ite PpiLine.level rfl
  · exact .updSpi (.refl s) fun _ l => keeps_ite SpiLine.level (l.released_level c)

/-- R240: an acknowledge returns a value, after at most a claim. -/
theorem State.acknowledge_sameOutside (s : State) (late : Bool) (tie : Nat) :
    s.SameOutside (s.acknowledge late tie) := by
  obtain ⟨w, h⟩ | ⟨e, -, -, -, -, h⟩ := s.acknowledge_cases late tie
  · exact h ▸ (State.SameOutside.refl s).ret w
  · exact h ▸ (s.claim_sameOutside s.cpu e).ret _

/-- R174, R176: a write of an enable array writes enable bits. -/
theorem State.writeEnables_sameOutside (s : State) (k : Nat) (v : Word) (b : Bool) :
    s.SameOutside (s.writeEnables k v b) := by
  refine .updSpi (.updPpi (.refl s) s.cpu ?_) ?_
  exacts [fun _ _ => keeps_ite PpiLine.level rfl, fun _ _ => keeps_ite SpiLine.level rfl]

/-- R206: a write of ICDICFR writes configurations. -/
theorem State.writeCfg_sameOutside (s : State) (k : Nat) (v : Word) : s.SameOutside (s.writeCfg k v) := by
  refine .updSpi (.updPpi (.refl s) s.cpu ?_) ?_
  exacts [fun _ _ => keeps_ite PpiLine.level rfl, fun _ _ => keeps_ite SpiLine.level rfl]

/-- Every access that completes writes only what an access may write. -/
theorem exec_sameOutside {i : Instr} {s t : State} (h : exec i s = .next t) : s.SameOutside t := by
  have hs := State.SameOutside.refl s
  cases i with
  | rdIcddcr | rdIcdictr | rdIcdiidr | rdPidr47 | rdPidr03 | rdCidr | rdIcdisr | rdIcdiser | rdIcdicer | rdIcdispr
  | rdIcdicpr | rdIcdabr | rdIcdipr | rdIcdiptr | rdIcdicfr | rdIccicr | rdIccpmr | rdIccbpr | rdIccrpr | rdIcchpir
  | rdIccabpr | rdIcciidr => exact .of_next h (hs.ret _)
  | rdIcciar => exact .of_next h (s.acknowledge_sameOutside _ _)
  | wrIccicr | wrIccpmr | wrIccbpr | wrIccabpr => exact .of_next h (hs.updIf s.cpu _)
  | wrIcceoir =>
    obtain ⟨e, -, -, -, -, rfl⟩ := execWrIcceoir_next h
    exact s.release_sameOutside s.cpu e
  | wrIcddcr =>
    exact .of_next h ⟨rfl, hs.ppiLevel, hs.spiLevel, hs.spiAboveMaxl⟩
  | wrIcdisr | wrIcdipr =>
    refine .of_next h (.updSpi (.updPpi (hs.updSgi s.cpu _) s.cpu ?_) ?_)
    exacts [fun _ _ => keeps_ite PpiLine.level rfl, fun _ _ => keeps_ite SpiLine.level rfl]
  | wrIcdiser | wrIcdicer => exact .of_next h (s.writeEnables_sameOutside _ _ _)
  | wrIcdispr =>
    refine .of_next h (.updSpi (.updPpi hs s.cpu ?_) ?_)
    exacts [fun _ _ => keeps_ite PpiLine.level rfl, fun _ l => keeps_ite SpiLine.level (l.latched_level s.par)]
  | wrIcdicpr =>
    refine .of_next h (.updSpi (.updPpi hs s.cpu ?_) ?_)
    exacts [fun _ _ => keeps_ite PpiLine.level rfl, fun _ l => keeps_ite SpiLine.level (l.unlatched_level s.par)]
  | wrIcdiptr =>
    refine .of_next h (.updSpi hs ?_)
    exact fun _ _ => keeps_ite SpiLine.level rfl
  | wrIcdicfr =>
    obtain ⟨-, -, rfl⟩ := execWrIcdicfr_next h
    exact s.writeCfg_sameOutside _ _
  | wrIcdsgir =>
    obtain ⟨_, -, rfl⟩ := execWrIcdsgir_next h
    exact hs.updSgis _

/-- Settles O55, from the frame that every access keeps. -/
theorem accessesLeaveTheOutsideAlone : Obligations.AccessesLeaveTheOutsideAlone := by
  intro i s t h
  obtain ⟨hfields, hppi, hspi, habove⟩ := exec_sameOutside h
  refine ⟨?_, ?_, ?_, ?_, ?_, ?_, ?_, ?_, ?_, hppi, hspi, habove⟩ <;> rw [hfields]

end Sys2Proof.Machine
end

section
/-! The privacy of banked state (spec/10 R57, spec/20 R82, spec/60 R342), and a step that nothing reaches (spec/10 R31,
spec/20 R81). -/

namespace Sys2Proof.Machine

/-- Everything banked for CPU `c` is the same in `t` as in `s`: its interface, its PPIs and its SGIs. -/
structure State.SameBanked (s t : State) (c : CpuId) : Prop where
  ifOf : t.ifOf c = s.ifOf c
  ppiOf : ∀ n, 16 ≤ n → n < 32 → t.ppiOf c n = s.ppiOf c n
  sgiOf : ∀ n, n < 16 → t.sgiOf c n = s.sgiOf c n

namespace State.SameBanked

variable {s t : State} {c : CpuId}

theorem refl (s : State) (c : CpuId) : s.SameBanked s c := ⟨rfl, fun _ _ _ => rfl, fun _ _ => rfl⟩

theorem ret (h : s.SameBanked t c) (v : Word) : s.SameBanked (t.ret v) c := ⟨h.ifOf, h.ppiOf, h.sgiOf⟩

theorem updIf (h : s.SameBanked t c) {c2 : CpuId} (hc : c ≠ c2) (f : CpuIf → CpuIf) :
    s.SameBanked (t.updIf c2 f) c where
  ifOf := by rw [State.ifOf_updIf, if_neg hc, h.ifOf]
  ppiOf := h.ppiOf
  sgiOf := h.sgiOf

theorem updSgi (h : s.SameBanked t c) {c2 : CpuId} (hc : c ≠ c2) (f : Nat → SgiLine → SgiLine) :
    s.SameBanked (t.updSgi c2 f) c where
  ifOf := h.ifOf
  ppiOf n h1 h2 := by rw [State.ppiOf_updSgi, h.ppiOf n h1 h2]
  sgiOf n hn := by rw [State.sgiOf_updSgi t c2 f c n hn, if_neg hc, h.sgiOf n hn]

theorem updPpi (h : s.SameBanked t c) {c2 : CpuId} (hc : c ≠ c2) (f : Nat → PpiLine → PpiLine) :
    s.SameBanked (t.updPpi c2 f) c where
  ifOf := h.ifOf
  ppiOf n h1 h2 := by rw [State.ppiOf_updPpi t c2 f c n h1 h2, if_neg hc, h.ppiOf n h1 h2]
  sgiOf n hn := by rw [State.sgiOf_updPpi, h.sgiOf n hn]

theorem updSpi (h : s.SameBanked t c) (f : Nat → SpiLine → SpiLine) : s.SameBanked (t.updSpi f) c :=
  ⟨h.ifOf, h.ppiOf, h.sgiOf⟩

/-- An access that answers `.next` of such a state leaves that state. -/
theorem of_next {u : State} (h : (.next u : Host.Outcome State Fault Refusal) = .next t)
    (hu : s.SameBanked u c) : s.SameBanked t c := by
  cases h
  exact hu

end State.SameBanked

/-- R307: a claim reaches nothing banked for a CPU but the claimer. -/
theorem State.claim_sameBanked (s : State) {c c2 : CpuId} (hc : c ≠ c2) (e : Entry) :
    s.SameBanked (s.claim c2 e) c := by
  refine .updIf ?_ hc _
  unfold State.claimLine
  split_ifs
  · exact .updSgi (.refl s c) hc _
  · exact .updPpi (.refl s c) hc _
  · exact .updSpi (.refl s c) _

/-- R308: a release reaches nothing banked for a CPU but the releaser. -/
theorem State.release_sameBanked (s : State) {c c2 : CpuId} (hc : c ≠ c2) (e : Entry) :
    s.SameBanked (s.release c2 e) c := by
  refine .updIf ?_ hc _
  unfold State.releaseLine
  split_ifs
  · exact .updSgi (.refl s c) hc _
  · exact .updPpi (.refl s c) hc _
  · exact .updSpi (.refl s c) _

/-- R57, R82: an access other than a send reaches nothing banked for a CPU but the issuer. -/
theorem exec_sameBanked {i : Instr} {s t : State} {c : CpuId} (h : exec i s = .next t) (hc : c ≠ s.cpu)
    (hi : ∀ v, i ≠ .wrIcdsgir v) : s.SameBanked t c := by
  have hs := State.SameBanked.refl s c
  cases i with
  | rdIcddcr | rdIcdictr | rdIcdiidr | rdPidr47 | rdPidr03 | rdCidr | rdIcdisr | rdIcdiser | rdIcdicer | rdIcdispr
  | rdIcdicpr | rdIcdabr | rdIcdipr | rdIcdiptr | rdIcdicfr | rdIccicr | rdIccpmr | rdIccbpr | rdIccrpr | rdIcchpir
  | rdIccabpr | rdIcciidr => exact .of_next h (hs.ret _)
  | rdIcciar =>
    refine .of_next h ?_
    obtain ⟨w, hw⟩ | ⟨e, -, -, -, -, he⟩ := s.acknowledge_cases s.late (Config.drawTie s.draws)
    · exact hw ▸ hs.ret w
    · exact he ▸ (s.claim_sameBanked hc e).ret _
  | wrIccicr | wrIccpmr | wrIccbpr | wrIccabpr => exact .of_next h (hs.updIf hc _)
  | wrIcceoir =>
    obtain ⟨e, -, -, -, -, rfl⟩ := execWrIcceoir_next h
    exact s.release_sameBanked hc e
  | wrIcddcr => exact .of_next h ⟨hs.ifOf, hs.ppiOf, hs.sgiOf⟩
  | wrIcdisr | wrIcdipr => exact .of_next h (((hs.updSgi hc _).updPpi hc _).updSpi _)
  | wrIcdiser | wrIcdicer | wrIcdispr | wrIcdicpr => exact .of_next h ((hs.updPpi hc _).updSpi _)
  | wrIcdiptr => exact .of_next h (hs.updSpi _)
  | wrIcdicfr =>
    obtain ⟨-, -, rfl⟩ := execWrIcdicfr_next h
    exact (hs.updPpi hc _).updSpi _
  | wrIcdsgir v => exact absurd rfl (hi v)

/-- Settles O54: a send writes SGIs only, and every other access reaches the issuer's banked state only. -/
theorem bankedStateIsPrivate : Obligations.BankedStateIsPrivate := by
  intro i s t c h hc
  by_cases hsend : ∃ v, i = .wrIcdsgir v
  · obtain ⟨v, rfl⟩ := hsend
    obtain ⟨targets, -, rfl⟩ := execWrIcdsgir_next h
    exact ⟨rfl, fun n _ _ => s.ppiOf_updSgis _ c n, fun hi => absurd rfl (hi v)⟩
  · have hb := exec_sameBanked h hc fun v hv => hsend ⟨v, hv⟩
    exact ⟨hb.ifOf, hb.ppiOf, fun _ => hb.sgiOf⟩

/-- R81: an implemented CPU's access at an address of neither window does not reach the block. -/
theorem admissionOf_elsewhere {p : Params} {r : Request} (hcpu : r.cpu.val < p.ncpu)
    (hwin : windowOf p r.addr = none) : admissionOf p r = .elsewhere := by
  rw [admissionOf, if_neg (Nat.not_le.mpr hcpu), hwin]

/-- Settles O41: a step with an empty inbox is the state itself, and an access elsewhere is only begun. -/
theorem nothingReachesTheBlock : Obligations.NothingReachesTheBlock := by
  intro s hfault hrefused
  have hrun : s.halted = none := by simp [State.halted, hfault, hrefused]
  refine ⟨fun hin => ?_, fun r rest hin hcpu hwin => ?_⟩
  · simp [step, hin, hrun]
  · simp only [step, hin, hrun, Option.getD_none, performEvent, performAccess, admissionOf_elsewhere hcpu hwin]
    rfl

end Sys2Proof.Machine
end

section
/-! The invariant of the block (spec/10 R38, R39, R48, R51, spec/43 R207, spec/60 R319). It is split in two: what every
line and every interface keeps by itself (`State.Sound`), and that each active stack lists what the lines hold
active. Every access but a claim and a release keeps the stacks, the active state, and each line's own soundness
(`State.Keeps`). -/

namespace Sys2Proof.Machine

/-- Where a relation holds of a changed line and is reflexive, it holds of a line that a guard may change. -/
theorem rel_ite {α : Type} {R : α → α → Prop} {p : Prop} [Decidable p] {old new : α}
    (hrefl : R old old) (h : p → R old new) : R old (if p then new else old) := by
  split_ifs with hp
  exacts [h hp, hrefl]

theorem mem_cpus (p : Params) (c : CpuId) : c ∈ p.cpus ↔ c.val < p.ncpu := by
  have hall : c ∈ ([0, 1, 2, 3, 4, 5, 6, 7] : List CpuId) := by fin_cases c <;> decide
  simp only [Params.cpus, List.mem_filter, hall, true_and, decide_eq_true_eq]

/- What a line and an interface keep by themselves. -/

/-- R38, R39 and R207, of one SPI. -/
structure SpiLine.Sound (p : Params) (l : SpiLine) : Prop where
  prio : l.prio &&& 0x0F = 0
  targets : l.tgt &&& ~~~ p.allCpu = 0
  unusedN : l.cfg.getLsbD 0 = true → ∀ c : CpuId, c.val < p.ncpu → l.latchN[c] = false ∧ l.actN[c] = false
  unusedOne : l.cfg.getLsbD 0 = false → l.latch1 = false ∧ l.act1 = none

/-- R48 and R319 (b), of one interface. -/
structure CpuIf.Sound (i : CpuIf) : Prop where
  mask : i.pmr &&& 0x0F = 0
  nests : i.stk.Pairwise fun newer older => newer.prio < older.prio
  storable : ∀ e ∈ i.stk, e.prio &&& 0x0F = 0 ∧ e.prio < 0xF0

/-- Every line and every interface is sound by itself. -/
structure State.Sound (s : State) : Prop where
  sgi : ∀ (c : CpuId) n, n < 16 → (s.sgiOf c n).prio &&& 0x0F = 0
  ppi : ∀ (c : CpuId) n, 16 ≤ n → n < 32 → (s.ppiOf c n).prio &&& 0x0F = 0
  spi : ∀ n, 32 ≤ n → n < s.par.maxl → (s.spiOf n).Sound s.par
  cpuIf : ∀ c, (s.ifOf c).Sound

/-- R38, line by line. -/
theorem State.prio_low_iff (s : State) (c : CpuId) :
    (∀ n, n < s.par.maxl → s.prio c n &&& 0x0F = 0) ↔
      (∀ n, n < 16 → (s.sgiOf c n).prio &&& 0x0F = 0) ∧
      (∀ n, 16 ≤ n → n < 32 → (s.ppiOf c n).prio &&& 0x0F = 0) ∧
      ∀ n, 32 ≤ n → n < s.par.maxl → (s.spiOf n).prio &&& 0x0F = 0 := by
  have hm := maxl_bounds s.par
  constructor
  · intro h
    refine ⟨fun n h1 => ?_, fun n h1 h2 => ?_, fun n h1 h2 => ?_⟩
    · simpa [State.prio, h1] using h n (by omega)
    · simpa [State.prio, h2, Nat.not_lt.mpr h1] using h n (by omega)
    · have hsgi : ¬ n < 16 := by omega
      simpa [State.prio, hsgi, Nat.not_lt.mpr h1] using h n h2
  · rintro ⟨hsgi, hppi, hspi⟩ n hn
    unfold State.prio
    split_ifs with h1 h2
    exacts [hsgi n h1, hppi n (by omega) h2, hspi n (by omega) hn]

/-- The invariant, in its two parts. -/
theorem State.inv_iff (s : State) : s.Inv ↔ s.Sound ∧ s.StackMatchesActive := by
  constructor
  · rintro ⟨hprio, htargets, hunused, hstack, hnests⟩
    have hlow := fun c => (s.prio_low_iff c).mp (hprio c).1
    refine ⟨⟨fun c => (hlow c).1, fun c => (hlow c).2.1, fun n h1 h2 => ?_, fun c => ?_⟩, hstack⟩
    · exact ⟨(hlow 0).2.2 n h1 h2, htargets n h1 h2, (hunused n h1 h2).1, (hunused n h1 h2).2⟩
    · exact ⟨(hprio c).2, (hnests c).1, (hnests c).2⟩
  · rintro ⟨⟨hsgi, hppi, hspi, hif⟩, hstack⟩
    refine ⟨fun c => ⟨?_, (hif c).mask⟩, fun n h1 h2 => (hspi n h1 h2).targets, fun n h1 h2 => ?_, hstack,
      fun c => ⟨(hif c).nests, (hif c).storable⟩⟩
    · exact (s.prio_low_iff c).mpr ⟨hsgi c, hppi c, fun n h1 h2 => (hspi n h1 h2).prio⟩
    · exact ⟨(hspi n h1 h2).unusedN, (hspi n h1 h2).unusedOne⟩

/-- SPI `l` is active on CPU `c`, in the copy its model bit selects (R302). -/
def SpiLine.ActiveFor (l : SpiLine) (c : CpuId) : Prop :=
  if l.cfg.getLsbD 0 then l.act1 = some c else l.actN[c] = true

/- What is active on a CPU (R51), by the kind of line. -/

theorem State.activeOn_sgi (s : State) (c : CpuId) {n : Nat} (src : CpuId) (hn : n < 16) :
    s.ActiveOn c n src ↔ (s.sgiOf c n).act = some src := by
  rw [State.ActiveOn, if_pos hn]

theorem State.activeOn_ppi (s : State) (c : CpuId) {n : Nat} (src : CpuId) (h1 : 16 ≤ n) (h2 : n < 32) :
    s.ActiveOn c n src ↔ src = 0 ∧ (s.ppiOf c n).act = true := by
  rw [State.ActiveOn, if_neg (Nat.not_lt.mpr h1), if_pos h2]

theorem State.activeOn_spi (s : State) (c : CpuId) {n : Nat} (src : CpuId) (hn : 32 ≤ n) :
    s.ActiveOn c n src ↔ n < s.par.maxl ∧ src = 0 ∧ (s.spiOf n).ActiveFor c := by
  rw [State.ActiveOn, if_neg (by omega), if_neg (by omega), SpiLine.ActiveFor]

/- Changes of a line or an interface that keep its soundness and what is active of it. -/

def SgiLine.Keeps (old new : SgiLine) : Prop :=
  (old.prio &&& 0x0F = 0 → new.prio &&& 0x0F = 0) ∧ new.act = old.act

def PpiLine.Keeps (old new : PpiLine) : Prop :=
  (old.prio &&& 0x0F = 0 → new.prio &&& 0x0F = 0) ∧ new.act = old.act

def SpiLine.Keeps (p : Params) (old new : SpiLine) : Prop :=
  (old.Sound p → new.Sound p) ∧ ∀ c : CpuId, c.val < p.ncpu → (new.ActiveFor c ↔ old.ActiveFor c)

def CpuIf.Keeps (old new : CpuIf) : Prop :=
  (old.pmr &&& 0x0F = 0 → new.pmr &&& 0x0F = 0) ∧ new.stk = old.stk

theorem SgiLine.Keeps.refl (l : SgiLine) : l.Keeps l := ⟨id, rfl⟩
theorem PpiLine.Keeps.refl (l : PpiLine) : l.Keeps l := ⟨id, rfl⟩
theorem SpiLine.Keeps.refl (p : Params) (l : SpiLine) : l.Keeps p l := ⟨id, fun _ _ => Iff.rfl⟩
theorem SpiLine.Keeps.trans {p : Params} {l l2 l3 : SpiLine} (h : l.Keeps p l2) (h2 : l2.Keeps p l3) : l.Keeps p l3 :=
  ⟨h2.1 ∘ h.1, fun c hc => (h2.2 c hc).trans (h.2 c hc)⟩

theorem CpuIf.Keeps.refl (i : CpuIf) : i.Keeps i := ⟨id, rfl⟩

/-- R38, R202, R235: what a written priority field stores has a zero low half. -/
theorem storedPrio_low (field : Word) : storedPrio field &&& 0x0F = 0 := by
  rw [storedPrio, BitVec.and_assoc, show prioMask &&& 0x0F = 0 by decide]
  exact BitVec.and_zero

/-- R39, R204: what a written target field stores names implemented CPUs only. -/
theorem storedTargets_implemented (p : Params) (field : Word) : storedTargets p field &&& ~~~ p.allCpu = 0 := by
  rw [storedTargets, BitVec.and_assoc, BitVec.and_not_self]
  exact BitVec.and_zero

theorem SpiLine.keeps_sec (p : Params) (l : SpiLine) (b : Bool) : l.Keeps p { l with sec := b } :=
  ⟨fun h => ⟨h.prio, h.targets, h.unusedN, h.unusedOne⟩, fun _ _ => Iff.rfl⟩

theorem SpiLine.keeps_en (p : Params) (l : SpiLine) (b : Bool) : l.Keeps p { l with en := b } :=
  ⟨fun h => ⟨h.prio, h.targets, h.unusedN, h.unusedOne⟩, fun _ _ => Iff.rfl⟩

theorem SpiLine.keeps_prio (p : Params) (l : SpiLine) (field : Word) : l.Keeps p { l with prio := storedPrio field } :=
  ⟨fun h => ⟨storedPrio_low field, h.targets, h.unusedN, h.unusedOne⟩, fun _ _ => Iff.rfl⟩

theorem SpiLine.keeps_targets (p : Params) (l : SpiLine) (field : Word) :
    l.Keeps p { l with tgt := storedTargets p field } :=
  ⟨fun h => ⟨h.prio, storedTargets_implemented p field, h.unusedN, h.unusedOne⟩, fun _ _ => Iff.rfl⟩

theorem SpiLine.keeps_level (p : Params) (l : SpiLine) (b : Bool) : l.Keeps p { l with level := b } :=
  ⟨fun h => ⟨h.prio, h.targets, h.unusedN, h.unusedOne⟩, fun _ _ => Iff.rfl⟩

/-- R178, R207: latching sets the copy that the model bit selects. -/
theorem SpiLine.keeps_latched (p : Params) (l : SpiLine) : l.Keeps p (l.latched p) := by
  unfold SpiLine.latched
  split_ifs with hone
  · exact ⟨fun h => ⟨h.prio, h.targets, h.unusedN, fun hN => absurd (hone.symm.trans hN) (by decide)⟩,
      fun _ _ => Iff.rfl⟩
  · exact ⟨fun h => ⟨h.prio, h.targets, fun h1 => absurd h1 hone, h.unusedOne⟩, fun _ _ => Iff.rfl⟩

/-- R180: clearing a latched state sets nothing. -/
theorem SpiLine.keeps_unlatched (p : Params) (l : SpiLine) : l.Keeps p (l.unlatched p) := by
  refine ⟨fun h => ⟨h.prio, h.targets, fun h1 c hc => ⟨?_, (h.unusedN h1 c hc).2⟩, fun hN => ⟨rfl, ?_⟩⟩,
    fun _ _ => Iff.rfl⟩
  · simp [SpiLine.unlatched, hc]
  · exact (h.unusedOne hN).2

/-- R206, R207: a configuration may be written if it keeps the model bit or the SPI is idle. -/
theorem SpiLine.keeps_cfg (p : Params) (l : SpiLine) (cfg : BitVec 2)
    (hidle : cfg.getLsbD 0 ≠ l.cfg.getLsbD 0 → l.latch1 = false ∧ l.act1 = none ∧
      ∀ c : CpuId, c.val < p.ncpu → l.latchN[c] = false ∧ l.actN[c] = false) :
    l.Keeps p { l with cfg := cfg } := by
  by_cases hbit : cfg.getLsbD 0 = l.cfg.getLsbD 0
  · exact ⟨fun h => ⟨h.prio, h.targets, fun h1 => h.unusedN (hbit ▸ h1), fun hN => h.unusedOne (hbit ▸ hN)⟩,
      fun c _ => by simp only [SpiLine.ActiveFor, hbit]⟩
  · obtain ⟨hlatch, hact, hN⟩ := hidle hbit
    exact ⟨fun h => ⟨h.prio, h.targets, fun _ => hN, fun _ => ⟨hlatch, hact⟩⟩,
      fun c hc => by simp [SpiLine.ActiveFor, hact, -Fin.getElem_fin, (hN c hc).2]⟩

/-- `t` has the parameters of `s`, and every line and interface of `s` but for changes that keep it. -/
structure State.Keeps (s t : State) : Prop where
  par : t.par = s.par
  sgi : ∀ (c : CpuId) n, n < 16 → (s.sgiOf c n).Keeps (t.sgiOf c n)
  ppi : ∀ (c : CpuId) n, 16 ≤ n → n < 32 → (s.ppiOf c n).Keeps (t.ppiOf c n)
  spi : ∀ n, 32 ≤ n → n < s.par.maxl → (s.spiOf n).Keeps s.par (t.spiOf n)
  cpuIf : ∀ c, (s.ifOf c).Keeps (t.ifOf c)

namespace State.Keeps

variable {s t u : State}

/-- The parameters, the lines and the interfaces are all that counts. -/
theorem of_eq (hpar : t.par = s.par) (hbank : t.bank = s.bank) (hspi : t.spi = s.spi) (hif : t.cpuIf = s.cpuIf) :
    s.Keeps t where
  par := hpar
  sgi c n _ := by simpa only [State.sgiOf, hbank] using .refl _
  ppi c n _ _ := by simpa only [State.ppiOf, hbank] using .refl _
  spi n _ _ := by simpa only [State.spiOf, hspi] using .refl _ _
  cpuIf c := by simpa only [State.ifOf, hif] using .refl _

theorem refl (s : State) : s.Keeps s := of_eq rfl rfl rfl rfl

theorem trans (h : s.Keeps t) (h2 : t.Keeps u) : s.Keeps u where
  par := h2.par.trans h.par
  sgi c n hn := ⟨(h2.sgi c n hn).1 ∘ (h.sgi c n hn).1, (h2.sgi c n hn).2.trans (h.sgi c n hn).2⟩
  ppi c n h1 h3 := ⟨(h2.ppi c n h1 h3).1 ∘ (h.ppi c n h1 h3).1, (h2.ppi c n h1 h3).2.trans (h.ppi c n h1 h3).2⟩
  spi n h1 h3 := (h.spi n h1 h3).trans (h.par ▸ h2.spi n h1 (h.par ▸ h3))
  cpuIf c := ⟨(h2.cpuIf c).1 ∘ (h.cpuIf c).1, (h2.cpuIf c).2.trans (h.cpuIf c).2⟩

theorem updSgis {f : CpuId → Nat → SgiLine → SgiLine} (hf : ∀ c n l, SgiLine.Keeps l (f c n l)) :
    s.Keeps (s.updSgis f) where
  par := rfl
  sgi c n hn := by rw [State.sgiOf_updSgis s f c n hn]; exact hf _ _ _
  ppi c n _ _ := by rw [State.ppiOf_updSgis]; exact .refl _
  spi n _ _ := .refl _ _
  cpuIf c := .refl _

theorem updSgi (c : CpuId) {f : Nat → SgiLine → SgiLine} (hf : ∀ n l, SgiLine.Keeps l (f n l)) :
    s.Keeps (s.updSgi c f) :=
  updSgis fun _ n l => rel_ite (.refl l) fun _ => hf n l

theorem updPpi (c : CpuId) {f : Nat → PpiLine → PpiLine} (hf : ∀ n l, PpiLine.Keeps l (f n l)) :
    s.Keeps (s.updPpi c f) where
  par := rfl
  sgi c2 n _ := by rw [State.sgiOf_updPpi]; exact .refl _
  ppi c2 n h1 h2 := by
    rw [State.ppiOf_updPpi s c f c2 n h1 h2]
    exact rel_ite (.refl _) fun _ => hf _ _
  spi n _ _ := .refl _ _
  cpuIf c := .refl _

theorem updSpi {f : Nat → SpiLine → SpiLine}
    (hf : ∀ n, 32 ≤ n → n < s.par.maxl → (s.spiOf n).Keeps s.par (f n (s.spiOf n))) : s.Keeps (s.updSpi f) where
  par := rfl
  sgi c n _ := .refl _
  ppi c n _ _ := .refl _
  spi n h1 h2 := by rw [State.spiOf_updSpi s f n h1, if_pos h2]; exact hf n h1 h2
  cpuIf c := .refl _

theorem updIf (c : CpuId) {f : CpuIf → CpuIf} (hf : ∀ i, CpuIf.Keeps i (f i)) : s.Keeps (s.updIf c f) where
  par := rfl
  sgi c n _ := .refl _
  ppi c n _ _ := .refl _
  spi n _ _ := .refl _ _
  cpuIf c2 := by rw [State.ifOf_updIf]; exact rel_ite (.refl _) fun _ => hf _

/-- What is active on an implemented CPU stays. -/
theorem activeOn_iff (h : s.Keeps t) {c : CpuId} (hc : c.val < s.par.ncpu) (n : Nat) (src : CpuId) :
    t.ActiveOn c n src ↔ s.ActiveOn c n src := by
  by_cases h1 : n < 16
  · rw [t.activeOn_sgi c src h1, s.activeOn_sgi c src h1, (h.sgi c n h1).2]
  by_cases h2 : n < 32
  · rw [t.activeOn_ppi c src (by omega) h2, s.activeOn_ppi c src (by omega) h2, (h.ppi c n (by omega) h2).2]
  · rw [t.activeOn_spi c src (by omega), s.activeOn_spi c src (by omega), h.par]
    exact and_congr_right fun hm => and_congr_right fun _ => (h.spi n (by omega) hm).2 c hc

/-- Changes that keep every line and interface keep the invariant. -/
theorem inv (h : s.Keeps t) (hinv : s.Inv) : t.Inv := by
  obtain ⟨hsound, hstack⟩ := s.inv_iff.mp hinv
  refine t.inv_iff.mpr ⟨⟨fun c n hn => (h.sgi c n hn).1 (hsound.sgi c n hn), fun c n h1 h2 =>
    (h.ppi c n h1 h2).1 (hsound.ppi c n h1 h2), fun n h1 h2 => ?_, fun c => ?_⟩, fun c hc => ?_⟩
  · rw [h.par] at h2 ⊢
    exact (h.spi n h1 h2).1 (hsound.spi n h1 h2)
  · obtain ⟨hmask, hstk⟩ := h.cpuIf c
    obtain ⟨hold, hnests, hstorable⟩ := hsound.cpuIf c
    exact ⟨hmask hold, hstk ▸ hnests, hstk ▸ hstorable⟩
  · rw [h.par] at hc
    obtain ⟨hnodup, hmem⟩ := hstack c hc
    rw [(h.cpuIf c).2]
    exact ⟨hnodup, fun n src => (hmem n src).trans (h.activeOn_iff hc n src).symm⟩

end State.Keeps

/-- The invariant is about the parameters, the lines and the interfaces alone. -/
theorem State.Inv.of_eq {s t : State} (hinv : s.Inv) (hpar : t.par = s.par) (hbank : t.bank = s.bank)
    (hspi : t.spi = s.spi) (hif : t.cpuIf = s.cpuIf) : t.Inv :=
  (State.Keeps.of_eq hpar hbank hspi hif).inv hinv

end Sys2Proof.Machine
end

section
/-! The invariant under a claim and a release (spec/60 R307, R308, R317, R319): a claim pushes one entry on the claimer's
stack and makes its line active there, and a release undoes both for the top of the stack. -/

namespace Sys2Proof.Machine

/-- A stack lists exactly the IDs and sources of `active`, no ID twice (R51). -/
def StackLists (stk : List Entry) (active : Nat → CpuId → Prop) : Prop :=
  (stk.map Entry.id).Nodup ∧ ∀ n src, (∃ e ∈ stk, e.id = n ∧ e.src = src) ↔ active n src

theorem StackLists.push {stk : List Entry} {active active' : Nat → CpuId → Prop} (h : StackLists stk active)
    {e : Entry} (hnew : ∀ src, ¬ active e.id src)
    (hact : ∀ n src, active' n src ↔ if n = e.id then src = e.src else active n src) :
    StackLists (e :: stk) active' := by
  obtain ⟨hnodup, hmem⟩ := h
  have hfresh : ∀ x ∈ stk, x.id ≠ e.id := fun x hx hid => hnew x.src ((hmem e.id x.src).mp ⟨x, hx, hid, rfl⟩)
  refine ⟨?_, fun n src => ?_⟩
  · rw [List.map_cons, List.nodup_cons]
    exact ⟨by simpa using hfresh, hnodup⟩
  · rw [hact, List.exists_mem_cons_iff]
    split_ifs with hn
    · subst hn
      constructor
      · rintro (⟨-, hsrc⟩ | ⟨x, hx, hid, -⟩)
        exacts [hsrc.symm, absurd hid (hfresh x hx)]
      · exact fun hsrc => .inl ⟨rfl, hsrc.symm⟩
    · rw [← hmem n src, or_iff_right fun he => hn he.1.symm]

theorem StackLists.pop {e : Entry} {stk : List Entry} {active active' : Nat → CpuId → Prop}
    (h : StackLists (e :: stk) active) (hact : ∀ n src, active' n src ↔ n ≠ e.id ∧ active n src) :
    StackLists stk active' := by
  obtain ⟨hnodup, hmem⟩ := h
  rw [List.map_cons, List.nodup_cons] at hnodup
  have hrest : ∀ x ∈ stk, x.id ≠ e.id := fun x hx hid => hnodup.1 (hid ▸ List.mem_map_of_mem hx)
  refine ⟨hnodup.2, fun n src => ?_⟩
  rw [hact, ← hmem n src]
  constructor
  · rintro ⟨x, hx, rfl, rfl⟩
    exact ⟨hrest x hx, x, List.mem_cons_of_mem e hx, rfl, rfl⟩
  · rintro ⟨hn, x, hx, hid, hsrc⟩
    rcases List.mem_cons.mp hx with rfl | hx
    exacts [absurd hid.symm hn, ⟨x, hx, hid, hsrc⟩]

/-- What is active on a CPU makes its line active there, as the arbiter sees it (R302). -/
theorem State.eact_of_activeOn (s : State) {c : CpuId} {n : Nat} {src : CpuId} (h : s.ActiveOn c n src) :
    s.eact c n = true := by
  by_cases h1 : n < 16
  · simp [State.eact, h1, (s.activeOn_sgi c src h1).mp h]
  by_cases h2 : n < 32
  · simp [State.eact, h1, h2, ((s.activeOn_ppi c src (by omega) h2).mp h).2]
  · obtain ⟨-, -, hact⟩ := (s.activeOn_spi c src (by omega)).mp h
    unfold SpiLine.ActiveFor at hact
    simp only [State.eact, State.oneN, State.cfgOf, h1, h2, if_false]
    split_ifs at hact ⊢
    · rw [hact]; rfl
    · exact hact

theorem SpiLine.Sound.claimed {p : Params} {l : SpiLine} (h : l.Sound p) (c : CpuId) : (l.claimed c).Sound p := by
  unfold SpiLine.claimed
  split_ifs with hone
  · exact ⟨h.prio, h.targets, h.unusedN, fun hN => absurd (hone.symm.trans hN) (by decide)⟩
  · exact ⟨h.prio, h.targets, fun h1 => absurd h1 hone, h.unusedOne⟩

theorem SpiLine.Sound.released {p : Params} {l : SpiLine} (h : l.Sound p) (c : CpuId) : (l.released c).Sound p := by
  refine ⟨h.prio, h.targets, fun h1 c2 hc2 => ⟨(h.unusedN h1 c2 hc2).1, ?_⟩, fun hN => ⟨(h.unusedOne hN).1, ?_⟩⟩
  · simpa [SpiLine.released] using fun _ => (h.unusedN h1 c2 hc2).2
  · simp [SpiLine.released, (h.unusedOne hN).2]

/-- R307: a claim of an SPI that is not active under 1:N makes it active on the claimer, and on no other CPU. -/
theorem SpiLine.activeFor_claimed (l : SpiLine) (c c2 : CpuId) (hfree : l.cfg.getLsbD 0 = true → l.act1 = none) :
    (l.claimed c).ActiveFor c2 ↔ c2 = c ∨ l.ActiveFor c2 := by
  unfold SpiLine.ActiveFor SpiLine.claimed
  cases hone : l.cfg.getLsbD 0 with
  | true => simp only [hone, if_true, hfree hone, Option.some.injEq, reduceCtorEq, or_false, eq_comm]
  | false =>
    simp only [hone, Bool.false_eq_true, if_false, Fin.getElem_fin, tabSet_cpu]
    by_cases hc : c2 = c <;> simp [hc]

/-- R308: a release of an SPI makes it inactive on the releaser, and on no other CPU. -/
theorem SpiLine.activeFor_released (l : SpiLine) (c c2 : CpuId) :
    (l.released c).ActiveFor c2 ↔ c2 ≠ c ∧ l.ActiveFor c2 := by
  unfold SpiLine.ActiveFor SpiLine.released
  cases hone : l.cfg.getLsbD 0 with
  | true =>
    simp only [if_true]
    by_cases hact : l.act1 = some c
    · simp [hact, eq_comm]
    · simp only [hact, if_false, iff_and_self]
      rintro hact2 rfl
      exact hact hact2
  | false =>
    simp only [Bool.false_eq_true, if_false, Fin.getElem_fin, tabSet_cpu]
    by_cases hc : c2 = c <;> simp [hc]

/-- R307: after a claim of what is inactive on the claimer, it is active there beside all that was. -/
theorem State.activeOn_claim (s : State) {c : CpuId} {e : Entry} (hid : e.id < s.par.maxl)
    (hsrc : 16 ≤ e.id → e.src = 0) (hidle : s.eact c e.id = false) (c2 : CpuId) (n : Nat) (src : CpuId) :
    (s.claim c e).ActiveOn c2 n src ↔ if c2 = c ∧ n = e.id then src = e.src else s.ActiveOn c2 n src := by
  obtain ⟨hsgi, hppi, hspi⟩ := s.claimLine_lines c e
  by_cases h1 : n < 16
  · rw [State.activeOn_sgi _ c2 src h1, s.activeOn_sgi c2 src h1, State.claim, State.sgiOf_updIf, hsgi c2 n h1]
    split_ifs
    · simp only [SgiLine.claimed, Option.some.injEq, eq_comm]
    · rfl
  by_cases h2 : n < 32
  · rw [State.activeOn_ppi _ c2 src (by omega) h2, s.activeOn_ppi c2 src (by omega) h2, State.claim,
      State.ppiOf_updIf, hppi c2 n (by omega) h2]
    split_ifs with hn
    · simp only [PpiLine.claimed, and_true, hsrc (by omega)]
    · rfl
  · have hfree : n = e.id → (s.spiOf n).cfg.getLsbD 0 = true → (s.spiOf n).act1 = none := by
      rintro rfl hone
      have hcfg : s.oneN c e.id = true := by rw [State.oneN, State.cfgOf, if_neg h1, if_neg h2, hone]
      simpa [State.eact, h1, h2, hcfg] using hidle
    rw [State.activeOn_spi _ c2 src (by omega), s.activeOn_spi c2 src (by omega), State.claim, State.spiOf_updIf,
      State.updIf_par, State.claimLine_par, hspi n (by omega)]
    by_cases hn : n = e.id
    · subst hn
      rw [if_pos ⟨hid, rfl⟩, SpiLine.activeFor_claimed _ c c2 (hfree rfl), hsrc (by omega)]
      by_cases hc : c2 = c <;> simp [hc, hid]
    · rw [if_neg fun h => hn h.2, if_neg fun h => hn h.2]

/-- R308: after a release the released ID is inactive on the releaser, and nothing else has changed. -/
theorem State.activeOn_release (s : State) (c : CpuId) (e : Entry) (c2 : CpuId) (n : Nat) (src : CpuId) :
    (s.release c e).ActiveOn c2 n src ↔ ¬ (c2 = c ∧ n = e.id) ∧ s.ActiveOn c2 n src := by
  obtain ⟨hsgi, hppi, hspi⟩ := s.releaseLine_lines c e
  by_cases h1 : n < 16
  · rw [State.activeOn_sgi _ c2 src h1, s.activeOn_sgi c2 src h1, State.release, State.sgiOf_updIf, hsgi c2 n h1]
    split_ifs with hn <;> simp [hn]
  by_cases h2 : n < 32
  · rw [State.activeOn_ppi _ c2 src (by omega) h2, s.activeOn_ppi c2 src (by omega) h2, State.release,
      State.ppiOf_updIf, hppi c2 n (by omega) h2]
    split_ifs with hn <;> simp [hn]
  · rw [State.activeOn_spi _ c2 src (by omega), s.activeOn_spi c2 src (by omega), State.release, State.spiOf_updIf,
      State.updIf_par, State.releaseLine_par, hspi n (by omega)]
    by_cases hn : n < s.par.maxl ∧ n = e.id
    · rw [if_pos hn, SpiLine.activeFor_released]
      simp only [hn, and_true, ne_eq]
      tauto
    · rw [if_neg hn]
      tauto

/-- Masking away low bits does not reverse an order: the mask of R236 compares priorities coarsely. -/
theorem lt_of_and_mask_lt {a b : Byte} {k : Nat} (h : a &&& (0xFF#8 <<< k) < b &&& (0xFF#8 <<< k)) : a < b := by
  have hmask : ∀ x : Byte, (x &&& (0xFF#8 <<< k)).toNat = x.toNat / 2 ^ k * 2 ^ k := by
    intro x
    have hx : x &&& (0xFF#8 <<< k) = (x >>> k) <<< k := by
      ext i hi
      by_cases hik : i < k
      · simp [hik]
      · have hback : k + (i - k) = i := by omega
        have hone : (0xFF#8)[i - k] = true := BitVec.getElem_allOnes (i - k) (by omega)
        simp [hik, hback, hone, BitVec.getLsbD_eq_getElem hi]
    have hle := Nat.div_mul_le_self x.toNat (2 ^ k)
    rw [hx, BitVec.toNat_shiftLeft, BitVec.toNat_ushiftRight, Nat.shiftLeft_eq, Nat.shiftRight_eq_div_pow,
      Nat.mod_eq_of_lt (lt_of_le_of_lt hle x.isLt)]
  rw [BitVec.lt_def, hmask, hmask] at h
  rw [BitVec.lt_def]
  by_contra hle
  exact absurd (Nat.mul_le_mul_right (2 ^ k) (Nat.div_le_div_right (Nat.not_lt.mp hle))) (Nat.not_le.mpr h)

/-- R317: what preempts is of a lower priority value than the running interrupt. -/
theorem State.prio_lt_of_gp_lt (s : State) {c : CpuId} {g : Group} {a b : Byte} (h : s.gp c g a < s.gp c g b) :
    a < b := by
  unfold State.gp State.gmask at h
  split_ifs at h
  exacts [lt_of_and_mask_lt h, lt_of_and_mask_lt h]

/-- R48: a priority mask is at most the lowest storable priority. -/
theorem le_of_low_zero {m : Byte} (h : m &&& 0x0F = 0) : m ≤ 0xF0 := by
  revert m
  decide

/-- R316, R317: what passes the mask and the preemption test nests on the active stack. -/
theorem CpuIf.Sound.push {i : CpuIf} (h : i.Sound) {e : Entry} (hlow : e.prio &&& 0x0F = 0) (hmask : e.prio < i.pmr)
    (htop : ∀ t, i.stk.head? = some t → e.prio < t.prio) : { i with stk := e :: i.stk }.Sound where
  mask := h.mask
  nests := by
    refine List.pairwise_cons.mpr ⟨fun x hx => ?_, h.nests⟩
    have hnests := h.nests
    cases hstk : i.stk with
    | nil => simp [hstk] at hx
    | cons t rest =>
      rw [hstk] at hx hnests
      have ht : e.prio < t.prio := htop t (by rw [hstk]; rfl)
      rcases List.mem_cons.mp hx with rfl | hx
      · exact ht
      · exact BitVec.lt_trans ht ((List.pairwise_cons.mp hnests).1 x hx)
  storable := List.forall_mem_cons.mpr
    ⟨⟨hlow, Nat.lt_of_lt_of_le hmask (le_of_low_zero h.mask)⟩, h.storable⟩

theorem CpuIf.Sound.pop {i : CpuIf} (h : i.Sound) : { i with stk := i.stk.tail }.Sound where
  mask := h.mask
  nests := h.nests.tail
  storable e he := h.storable e (List.mem_of_mem_tail he)

/-- R316, R317: a claimed candidate that may be signalled nests on the claimer's stack, and its line stays sound. -/
theorem State.Sound.claim {s : State} (h : s.Sound) {c : CpuId} {e : Entry} (hlow : e.prio &&& 0x0F = 0)
    (hsignal : s.signalOk c e = true) : (s.claim c e).Sound := by
  obtain ⟨hsgi, hppi, hspi⟩ := s.claimLine_lines c e
  have hpar : (s.claim c e).par = s.par := s.claimLine_par c e
  refine ⟨fun c2 n hn => ?_, fun c2 n h1 h2 => ?_, fun n h1 h2 => ?_, fun c2 => ?_⟩
  · rw [State.claim, State.sgiOf_updIf, hsgi c2 n hn]
    split_ifs
    exacts [h.sgi c2 n hn, h.sgi c2 n hn]
  · rw [State.claim, State.ppiOf_updIf, hppi c2 n h1 h2]
    split_ifs
    exacts [h.ppi c2 n h1 h2, h.ppi c2 n h1 h2]
  · rw [hpar] at h2 ⊢
    rw [State.claim, State.spiOf_updIf, hspi n h1]
    split_ifs
    exacts [(h.spi n h1 h2).claimed c, h.spi n h1 h2]
  · rw [State.claim, State.ifOf_updIf, State.claimLine_ifOf]
    split_ifs with hc
    · subst hc
      simp only [State.signalOk, Bool.and_eq_true, decide_eq_true_eq] at hsignal
      obtain ⟨hmask, hpreempt⟩ := hsignal
      refine (h.cpuIf c2).push hlow hmask fun t ht => ?_
      simp only [State.preemptOk, State.top, ht, decide_eq_true_eq] at hpreempt
      exact s.prio_lt_of_gp_lt hpreempt
    · exact h.cpuIf c2

theorem State.Sound.release {s : State} (h : s.Sound) (c : CpuId) (e : Entry) : (s.release c e).Sound := by
  obtain ⟨hsgi, hppi, hspi⟩ := s.releaseLine_lines c e
  have hpar : (s.release c e).par = s.par := s.releaseLine_par c e
  refine ⟨fun c2 n hn => ?_, fun c2 n h1 h2 => ?_, fun n h1 h2 => ?_, fun c2 => ?_⟩
  · rw [State.release, State.sgiOf_updIf, hsgi c2 n hn]
    split_ifs
    exacts [h.sgi c2 n hn, h.sgi c2 n hn]
  · rw [State.release, State.ppiOf_updIf, hppi c2 n h1 h2]
    split_ifs
    exacts [h.ppi c2 n h1 h2, h.ppi c2 n h1 h2]
  · rw [hpar] at h2 ⊢
    rw [State.release, State.spiOf_updIf, hspi n h1]
    split_ifs
    exacts [(h.spi n h1 h2).released c, h.spi n h1 h2]
  · rw [State.release, State.ifOf_updIf, State.releaseLine_ifOf]
    split_ifs
    exacts [(h.cpuIf c2).pop, h.cpuIf c2]

/-- R51, R307: a claim of what is inactive on the claimer pushes it. -/
theorem State.StackMatchesActive.claim {s : State} (h : s.StackMatchesActive) {c : CpuId} {e : Entry}
    (hid : e.id < s.par.maxl) (hsrc : 16 ≤ e.id → e.src = 0) (hidle : s.eact c e.id = false) :
    (s.claim c e).StackMatchesActive := by
  intro c2 hc2
  have hlists : StackLists (s.ifOf c2).stk (s.ActiveOn c2) :=
    h c2 (by rwa [State.claim, State.updIf_par, State.claimLine_par] at hc2)
  have hactive := s.activeOn_claim hid hsrc hidle c2
  rw [s.claim_stk c e c2]
  split_ifs with hc
  · subst hc
    have hnew : ∀ src, ¬ s.ActiveOn c2 e.id src := fun src hact => by simp [s.eact_of_activeOn hact] at hidle
    exact hlists.push hnew fun n src => by simpa using hactive n src
  · exact ⟨hlists.1, fun n src => by rw [hactive, if_neg fun hn => hc hn.1, hlists.2 n src]⟩

/-- R51, R308: a release of the top of the stack pops it. -/
theorem State.StackMatchesActive.release {s : State} (h : s.StackMatchesActive) {c : CpuId} {e : Entry}
    (htop : s.top c = some e) : (s.release c e).StackMatchesActive := by
  intro c2 hc2
  have hlists : StackLists (s.ifOf c2).stk (s.ActiveOn c2) :=
    h c2 (by rwa [State.release, State.updIf_par, State.releaseLine_par] at hc2)
  have hactive := s.activeOn_release c e c2
  rw [s.release_stk c e c2]
  split_ifs with hc
  · subst hc
    obtain ⟨rest, hstk⟩ := List.head?_eq_some_iff.mp htop
    rw [hstk] at hlists ⊢
    exact hlists.pop fun n src => by simpa using hactive n src
  · exact ⟨hlists.1, fun n src => by rw [hactive, and_iff_right fun hn => hc hn.1, hlists.2 n src]⟩

/-- R240, R319: the claim of a candidate that may be signalled keeps the invariant. -/
theorem State.Inv.claim {s : State} (hinv : s.Inv) {c : CpuId} {e : Entry} (hcand : e ∈ s.cand c)
    (hsignal : s.signalOk c e = true) : (s.claim c e).Inv := by
  obtain ⟨hsound, hstack⟩ := s.inv_iff.mp hinv
  obtain ⟨hid, hsources, hready, hprio⟩ := (s.mem_cand c e).mp hcand
  simp only [State.isCand, Bool.and_eq_true, Bool.not_eq_true'] at hready
  obtain ⟨⟨⟨⟨⟨-, hidle⟩, -⟩, -⟩, -⟩, -⟩ := hready
  have hsrc : 16 ≤ e.id → e.src = 0 := fun h => by
    simpa [State.sourcesOf, Nat.not_lt.mpr h] using hsources
  have hlow : e.prio &&& 0x0F = 0 := hprio ▸ (hinv.prioritiesTruncated c).1 e.id hid
  exact State.inv_iff _ |>.mpr ⟨hsound.claim hlow hsignal, hstack.claim hid hsrc hidle⟩

/-- R242, R308: the release of the top of the stack keeps the invariant. -/
theorem State.Inv.release {s : State} (hinv : s.Inv) {c : CpuId} {e : Entry} (htop : s.top c = some e) :
    (s.release c e).Inv := by
  obtain ⟨hsound, hstack⟩ := s.inv_iff.mp hinv
  exact State.inv_iff _ |>.mpr ⟨hsound.release c e, hstack.release htop⟩

end Sys2Proof.Machine
end

section
/-! The invariant holds after reset, and every access, every event and every step keeps it (spec/10 R38, R39, R48, R51,
spec/43 R207, spec/60 R319). -/

namespace Sys2Proof.Machine

/-- R206: an SPI that is not busy holds no pending and no active state of an implemented CPU. -/
theorem State.spiIdle_of_not_busy (s : State) {n : Nat} (h : s.spiBusy n = false) : s.SpiIdle n := by
  simp only [State.spiBusy, Bool.or_eq_false_iff, List.any_eq_false, mem_cpus, Bool.or_eq_true, not_or,
    Bool.not_eq_true, Option.isSome_eq_false_iff, Option.isNone_iff_eq_none] at h
  obtain ⟨⟨hlatch, hact⟩, hcpus⟩ := h
  exact ⟨hlatch, hact, hcpus⟩

/-- R206, R207: what passes the check for a busy SPI may write the configuration of every SPI of its word. -/
theorem State.spiOf_keeps_writtenCfg (s : State) {k : Nat} {v : Word} (hbusy : s.changesBusyModel k v = false)
    {n : Nat} (h1 : 32 ≤ n) (h2 : n < s.par.maxl) (hk : holdsLine .d16 k n = true) :
    (s.spiOf n).Keeps s.par { s.spiOf n with cfg := writtenCfg v n } := by
  refine SpiLine.keeps_cfg _ _ _ fun hbit => s.spiIdle_of_not_busy ?_
  have hmem : n ∈ cfgIds s.par.maxl k := by
    have hword : n / 16 = k := by simpa [holdsLine, wordIndex, Density.fields] using hk
    simp only [cfgIds, List.mem_filter, List.mem_map, List.mem_range, decide_eq_true_eq]
    exact ⟨⟨n % 16, by omega, by omega⟩, by omega, h2⟩
  have hone : s.oneN s.cpu n = (s.spiOf n).cfg.getLsbD 0 := by
    rw [State.oneN, State.cfgOf, if_neg (by omega), if_neg (by omega)]
  have hnot := List.any_eq_false.mp hbusy n hmem
  rw [hone] at hnot
  simpa [h1, hbit, -BitVec.getLsbD_eq_getElem] using hnot

/-- An access that keeps every line and interface, of a state with the invariant, leaves one with the invariant. -/
theorem State.Inv.of_next {s t u : State} (hinv : s.Inv) (h : (.next u : Host.Outcome State Fault Refusal) = .next t)
    (hu : s.Keeps u) : t.Inv := by
  cases h
  exact hu.inv hinv

theorem State.keeps_ret (s : State) (v : Word) : s.Keeps (s.ret v) := .of_eq rfl rfl rfl rfl

/-- Every access that completes keeps the invariant. -/
theorem State.Inv.of_exec {i : Instr} {s t : State} (hinv : s.Inv) (h : exec i s = .next t) : t.Inv := by
  cases i with
  | rdIcddcr | rdIcdictr | rdIcdiidr | rdPidr47 | rdPidr03 | rdCidr | rdIcdisr | rdIcdiser | rdIcdicer | rdIcdispr
  | rdIcdicpr | rdIcdabr | rdIcdipr | rdIcdiptr | rdIcdicfr | rdIccicr | rdIccpmr | rdIccbpr | rdIccrpr | rdIcchpir
  | rdIccabpr | rdIcciidr => exact hinv.of_next h (s.keeps_ret _)
  | wrIcddcr => exact hinv.of_next h (.of_eq rfl rfl rfl rfl)
  | rdIcciar =>
    cases h
    obtain ⟨w, hw⟩ | ⟨e, -, hpick, hsignal, -, hclaim⟩ := s.acknowledge_cases s.late (Config.drawTie s.draws)
    · exact hw ▸ (s.keeps_ret w).inv hinv
    · exact hclaim ▸ (State.keeps_ret _ _).inv (hinv.claim (s.hppi_mem _ _ e hpick).1 hsignal)
  | wrIcceoir =>
    obtain ⟨e, htop, -, -, -, rfl⟩ := execWrIcceoir_next h
    exact hinv.release htop
  | wrIccpmr => exact hinv.of_next h (.updIf s.cpu fun _ => ⟨fun _ => storedPrio_low _, rfl⟩)
  | wrIccicr | wrIccbpr | wrIccabpr => exact hinv.of_next h (.updIf s.cpu fun _ => ⟨id, rfl⟩)
  | wrIcdisr =>
    refine hinv.of_next h (.trans (.updSgi s.cpu fun _ l => ?_)
      (.trans (.updPpi s.cpu fun _ l => ?_) (.updSpi fun n _ _ => ?_)))
    · exact rel_ite (.refl l) fun _ => ⟨id, rfl⟩
    · exact rel_ite (.refl l) fun _ => ⟨id, rfl⟩
    · exact rel_ite (.refl _ _) fun _ => SpiLine.keeps_sec _ _ _
  | wrIcdipr =>
    refine hinv.of_next h (.trans (.updSgi s.cpu fun _ l => ?_)
      (.trans (.updPpi s.cpu fun _ l => ?_) (.updSpi fun n _ _ => ?_)))
    · exact rel_ite (.refl l) fun _ => ⟨fun _ => storedPrio_low _, rfl⟩
    · exact rel_ite (.refl l) fun _ => ⟨fun _ => storedPrio_low _, rfl⟩
    · exact rel_ite (.refl _ _) fun _ => SpiLine.keeps_prio _ _ _
  | wrIcdiser | wrIcdicer =>
    refine hinv.of_next h (.trans (.updPpi s.cpu fun _ l => ?_) (.updSpi fun n _ _ => ?_))
    · exact rel_ite (.refl l) fun _ => ⟨id, rfl⟩
    · exact rel_ite (.refl _ _) fun _ => SpiLine.keeps_en _ _ _
  | wrIcdispr =>
    refine hinv.of_next h (.trans (.updPpi s.cpu fun _ l => ?_) (.updSpi fun n _ _ => ?_))
    · exact rel_ite (.refl l) fun _ => ⟨id, rfl⟩
    · exact rel_ite (.refl _ _) fun _ => SpiLine.keeps_latched _ _
  | wrIcdicpr =>
    refine hinv.of_next h (.trans (.updPpi s.cpu fun _ l => ?_) (.updSpi fun n _ _ => ?_))
    · exact rel_ite (.refl l) fun _ => ⟨id, rfl⟩
    · exact rel_ite (.refl _ _) fun _ => SpiLine.keeps_unlatched _ _
  | wrIcdiptr =>
    refine hinv.of_next h (.updSpi fun n _ _ => ?_)
    exact rel_ite (.refl _ _) fun _ => SpiLine.keeps_targets _ _ _
  | wrIcdicfr =>
    obtain ⟨-, hbusy, rfl⟩ := execWrIcdicfr_next h
    refine State.Keeps.inv (.trans (.updPpi s.cpu fun _ l => ?_) (.updSpi fun n h1 h2 => ?_)) hinv
    · exact rel_ite (.refl l) fun _ => ⟨id, rfl⟩
    · exact rel_ite (.refl _ _) fun hk => s.spiOf_keeps_writtenCfg hbusy h1 h2 hk
  | wrIcdsgir =>
    obtain ⟨_, -, rfl⟩ := execWrIcdsgir_next h
    exact State.Keeps.inv (.updSgis fun _ _ l => rel_ite (.refl l) fun _ => ⟨id, rfl⟩) hinv

/-- The state after reset has the invariant. -/
theorem State.afterReset_inv (par : Params) (lv : Levels) (d : ResetDraw) : (State.afterReset par lv d).Inv := by
  have hm := maxl_bounds par
  have hzero : (0 : Byte) &&& 0x0F = 0 := by decide
  have hspi : ∀ n, n < par.maxl → ∃ cfg level, (State.afterReset par lv d).spiOf n = SpiLine.idle cfg level :=
    fun n hn => ⟨_, _, afterReset_spiOf par lv d n (by omega)⟩
  refine State.inv_iff _ |>.mpr
    ⟨⟨fun c n _ => ?_, fun c n h1 h2 => ?_, fun n _ hn => ?_, fun c => ?_⟩, fun c _ => ?_⟩
  · rw [afterReset_sgiOf]
    exact hzero
  · rw [afterReset_ppiOf par lv d c n h1 h2]
    exact hzero
  · obtain ⟨cfg, level, hidle⟩ := hspi n hn
    rw [hidle]
    exact ⟨hzero, BitVec.zero_and, fun _ c _ => by simp [SpiLine.idle], fun _ => ⟨rfl, rfl⟩⟩
  · rw [afterReset_ifOf]
    exact ⟨hzero, .nil, by simp [CpuIf.idle]⟩
  · rw [afterReset_ifOf]
    refine ⟨by simp [CpuIf.idle], fun n src => iff_of_false (by simp [CpuIf.idle]) fun hact => ?_⟩
    by_cases h1 : n < 16
    · rw [State.activeOn_sgi _ c src h1, afterReset_sgiOf] at hact
      exact nomatch hact
    by_cases h2 : n < 32
    · rw [State.activeOn_ppi _ c src (by omega) h2, afterReset_ppiOf par lv d c n (by omega) h2] at hact
      exact nomatch hact.2
    · obtain ⟨hn, -, hfor⟩ := (State.activeOn_spi _ c src (by omega)).mp hact
      obtain ⟨cfg, level, hidle⟩ := hspi n hn
      rw [hidle] at hfor
      simp [SpiLine.ActiveFor, SpiLine.idle] at hfor

/-- Settles O48: every line and interface is sound after reset, no stack has an entry, and nothing is active. -/
theorem resetHasInvariant : Obligations.ResetHasInvariant := State.afterReset_inv

/-- Every access keeps the invariant, however it ends. -/
theorem performAccess_keeps_inv {r : Request} {s t : State} (hinv : s.Inv) (h : performAccess r s = .next t) :
    t.Inv := by
  have hstart : ∀ i, (s.start r.cpu i).Inv := fun i =>
    hinv.of_eq (s.start_par _ i) (s.start_bank _ i) (s.start_spi _ i) (s.start_cpuIf _ i)
  obtain ⟨-, ⟨-, rfl⟩ | ⟨-, rfl⟩ | ⟨f, -, rfl⟩ | ⟨i, f, -, -, rfl⟩ | ⟨i, -, hexec⟩⟩ := performAccess_next s t r h
  · exact hinv.of_eq rfl rfl rfl rfl
  · exact hinv.of_eq rfl rfl rfl rfl
  · exact hinv.of_eq rfl rfl rfl rfl
  · exact (hstart i).of_eq rfl rfl rfl rfl
  · exact (hstart i).of_exec hexec

theorem State.keeps_setLevelPpi (s : State) (c : CpuId) (n : Nat) (b : Bool) : s.Keeps (s.setLevelPpi c n b) :=
  .updPpi c fun _ l => rel_ite (.refl l) fun _ => ⟨id, rfl⟩

theorem State.keeps_setLevelSpi (s : State) (n : Nat) (b : Bool) : s.Keeps (s.setLevelSpi n b) := by
  refine .updSpi fun m _ _ => rel_ite (.refl _ _) fun _ => ?_
  have hlevel := (s.spiOf m).keeps_level s.par b
  split_ifs
  exacts [hlevel.trans (SpiLine.keeps_latched _ _), hlevel]

/-- Settles O49, over everything a step can do: reset, a level event, or an access that keeps, claims or releases. -/
theorem stepKeepsInvariant : Obligations.StepKeepsInvariant := by
  intro s t hinv h
  have hrest : ∀ rest, State.Inv { s with inbox := rest } := fun rest => hinv.of_eq rfl rfl rfl rfl
  obtain ⟨-, -, rfl⟩ | ⟨rest, -, rfl⟩ | ⟨c, n, b, rest, -, -, -, rfl⟩ | ⟨n, b, rest, -, -, -, rfl⟩ |
    ⟨r, rest, -, -, haccess⟩ := step_next s t h
  · exact hinv
  · have hreset := State.afterReset_inv s.par (State.levels { s with inbox := rest }) (resetDrawAt s.draws)
    exact hreset.of_eq rfl rfl rfl rfl
  · exact (State.keeps_setLevelPpi _ c n b).inv (hrest rest)
  · exact (State.keeps_setLevelSpi _ n b).inv (hrest rest)
  · exact performAccess_keeps_inv (hrest rest) haccess

end Sys2Proof.Machine
end

section
/-! What the invariant says of two stacks (spec/20 R91, spec/60 R306). -/

namespace Sys2Proof.Machine

/-- Settles O51: a stacked 1:N SPI is active on the stack's CPU, and the line holds one such CPU. -/
theorem oneNIsExclusive : Obligations.OneNIsExclusive := by
  intro s c1 c2 e1 e2 hinv hc1 hc2 he1 he2 hid hspi hone
  have holder : ∀ c : CpuId, c.val < s.par.ncpu → ∀ e ∈ (s.ifOf c).stk, e.id = e1.id →
      (s.spiOf e1.id).act1 = some c := by
    intro c hc e he heq
    have hact : s.ActiveOn c e1.id e.src := ((hinv.stackMatchesActive c hc).2 _ _).mp ⟨e, he, heq, rfl⟩
    obtain ⟨-, -, hfor⟩ := (s.activeOn_spi c e.src hspi).mp hact
    rwa [SpiLine.ActiveFor, if_pos hone] at hfor
  exact Option.some.inj ((holder c1 hc1 e1 he1 rfl).symm.trans (holder c2 hc2 e2 he2 hid.symm))

end Sys2Proof.Machine
end

section
/-! Repeated accesses (spec/20 R86): what a read leaves alone, and that a second identical write changes nothing. A write
updates every line, or the issuer's interface, by a function that leaves its own results as they are; an update that
leaves all it reaches as it is leaves the state as it is. -/

namespace Sys2Proof.Machine

/-- Settles O52: a read answers what it computes from the block, and only ICCHPIR computes from the step number. -/
theorem readsHaveNoSideEffect : Obligations.ReadsHaveNoSideEffect := by
  intro i s hdir hack
  cases i with
  | rdIcciar => exact absurd rfl hack
  | rdIcchpir => exact ⟨_, rfl, fun hpeek => absurd rfl hpeek⟩
  | rdIcddcr | rdIcdictr | rdIcdiidr | rdPidr47 | rdPidr03 | rdCidr | rdIcdisr | rdIcdiser | rdIcdicer | rdIcdispr
  | rdIcdicpr | rdIcdabr | rdIcdipr | rdIcdiptr | rdIcdicfr | rdIccicr | rdIccpmr | rdIccbpr | rdIccrpr | rdIccabpr
  | rdIcciidr => exact ⟨_, rfl, fun _ _ _ => rfl⟩
  | _ => exact nomatch hdir

/-- An update that leaves every entry as it is leaves the table as it is. -/
theorem tabUpdate_eq_self {α : Type} {k : Nat} {f : Nat → α → α} {v : Vector α k} (d : α)
    (h : ∀ i, i < k → f i (tabGet v d i) = tabGet v d i) : tabUpdate f v = v :=
  tab_ext _ _ d fun i hi => (tabGet_tabUpdate f v d i hi).trans (h i hi)

theorem perCpu_eq_self {α : Type} {f : CpuId → α → α} {v : Vector α 8} (h : ∀ c : CpuId, f c v[c] = v[c]) :
    perCpu f v = v :=
  tab_ext_cpu _ _ fun c => (perCpu_getElem f v c).trans (h c)

/- When an update of the lines or of an interface changes nothing. -/

theorem State.updSgi_eq_self {s : State} {c : CpuId} {f : Nat → SgiLine → SgiLine}
    (h : ∀ n, n < 16 → f n (s.sgiOf c n) = s.sgiOf c n) : s.updSgi c f = s := by
  unfold State.updSgi State.updSgis
  rw [perCpu_eq_self fun c2 => ?_]
  rw [tabUpdate_eq_self SgiLine.idle fun n hn => ?_]
  beta_reduce
  split_ifs with hc
  exacts [hc ▸ h n hn, rfl]

theorem State.updPpi_eq_self {s : State} {c : CpuId} {f : Nat → PpiLine → PpiLine}
    (h : ∀ n, 16 ≤ n → n < 32 → f n (s.ppiOf c n) = s.ppiOf c n) : s.updPpi c f = s := by
  unfold State.updPpi Bank.updPpi
  rw [perCpu_eq_self fun c2 => ?_]
  split_ifs with hc
  · rw [tabUpdate_eq_self (PpiLine.idle 0 false) fun i hi => ?_]
    exact hc ▸ h (i + 16) (by omega) (by omega)
  · rfl

theorem State.updSpi_eq_self {s : State} {f : Nat → SpiLine → SpiLine}
    (h : ∀ n, 32 ≤ n → n < s.par.maxl → f n (s.spiOf n) = s.spiOf n) : s.updSpi f = s := by
  unfold State.updSpi
  rw [tabUpdate_eq_self (SpiLine.idle 0 false) fun i _ => ?_]
  split_ifs with hi
  exacts [h (i + 32) (by omega) hi, rfl]

theorem State.updIf_eq_self {s : State} {c : CpuId} {f : CpuIf → CpuIf} (h : f (s.ifOf c) = s.ifOf c) :
    s.updIf c f = s := by
  unfold State.updIf
  rw [perCpu_eq_self fun c2 => ?_]
  split_ifs with hc
  exacts [hc ▸ h, rfl]

/-- A guarded change that leaves its own result as it is does so under its guard. -/
theorem ite_again {α : Type} {p : Prop} [Decidable p] {f : α → α} (hf : ∀ x, f (f x) = f x) (x : α) :
    (if p then f (if p then f x else x) else if p then f x else x) = if p then f x else x := by
  split_ifs
  exacts [hf x, rfl]

/- The same update again, at another step number and whatever was returned since. -/

section
variable (s : State) (c : CpuId) {fs : Nat → SgiLine → SgiLine} {fp : Nat → PpiLine → PpiLine}
  {fi : Nat → SpiLine → SpiLine} (d : Nat) (r : Option Word)

theorem State.updIf_again {f g : CpuIf → CpuIf} (h : ∀ i, g (f i) = f i) :
    { s.updIf c f with draws := d, rdata := r }.updIf c g = { s.updIf c f with draws := d, rdata := r } := by
  have hif : (s.updIf c f).updIf c g = s.updIf c f :=
    updIf_eq_self (by rw [State.ifOf_updIf, if_pos rfl, h])
  exact congrArg (fun u : State => { u with draws := d, rdata := r }) hif

theorem State.updSpi_again (hfi : ∀ n l, fi n (fi n l) = fi n l) :
    { s.updSpi fi with draws := d, rdata := r }.updSpi fi = { s.updSpi fi with draws := d, rdata := r } := by
  have hspi : (s.updSpi fi).updSpi fi = s.updSpi fi :=
    updSpi_eq_self fun n h1 (h2 : n < s.par.maxl) => by rw [State.spiOf_updSpi s fi n h1, if_pos h2, hfi]
  exact congrArg (fun u : State => { u with draws := d, rdata := r }) hspi

theorem State.updPpi_updSpi_again (hfp : ∀ n l, fp n (fp n l) = fp n l) (hfi : ∀ n l, fi n (fi n l) = fi n l) :
    ({ (s.updPpi c fp).updSpi fi with draws := d, rdata := r }.updPpi c fp).updSpi fi =
      { (s.updPpi c fp).updSpi fi with draws := d, rdata := r } := by
  have hppi : ((s.updPpi c fp).updSpi fi).updPpi c fp = (s.updPpi c fp).updSpi fi :=
    updPpi_eq_self fun n h1 h2 => by rw [State.ppiOf_updSpi, State.ppiOf_updPpi s c fp c n h1 h2, if_pos rfl, hfp]
  exact (congrArg (fun u : State => { u with draws := d, rdata := r }.updSpi fi) hppi).trans
    (State.updSpi_again _ d r hfi)

theorem State.updSgi_updPpi_updSpi_again (hfs : ∀ n l, fs n (fs n l) = fs n l) (hfp : ∀ n l, fp n (fp n l) = fp n l)
    (hfi : ∀ n l, fi n (fi n l) = fi n l) :
    (({ ((s.updSgi c fs).updPpi c fp).updSpi fi with draws := d, rdata := r }.updSgi c fs).updPpi c fp).updSpi fi =
      { ((s.updSgi c fs).updPpi c fp).updSpi fi with draws := d, rdata := r } := by
  have hsgi : (((s.updSgi c fs).updPpi c fp).updSpi fi).updSgi c fs = ((s.updSgi c fs).updPpi c fp).updSpi fi :=
    updSgi_eq_self fun n hn => by
      rw [State.sgiOf_updSpi, State.sgiOf_updPpi, State.sgiOf_updSgi s c fs c n hn, if_pos rfl, hfs]
  exact (congrArg (fun u : State => ({ u with draws := d, rdata := r }.updPpi c fp).updSpi fi) hsgi).trans
    (State.updPpi_updSpi_again _ c d r hfp hfi)

end

/-- R178: latching what is latched changes nothing. -/
theorem SpiLine.latched_latched (l : SpiLine) (p : Params) : (l.latched p).latched p = l.latched p := by
  unfold SpiLine.latched
  split_ifs with hone
  · rfl
  · congr 1
    exact tabUpdate_eq_self false fun i hi => by rw [tabGet_tabUpdate _ _ _ i hi, Bool.or_assoc, Bool.or_self]

/-- R180: clearing what is clear changes nothing. -/
theorem SpiLine.unlatched_unlatched (l : SpiLine) (p : Params) : (l.unlatched p).unlatched p = l.unlatched p := by
  unfold SpiLine.unlatched
  congr 1
  refine tabUpdate_eq_self false fun i hi => ?_
  rw [tabGet_tabUpdate _ _ _ i hi]
  exact ite_again (f := fun _ => false) (fun _ => rfl) _

/-- R206: an ID of word `k` has the configuration that was written to the word. -/
theorem State.cfgOf_writeCfg (s : State) {k : Nat} (v : Word) {n : Nat} (hn : n ∈ cfgIds s.par.maxl k) :
    (s.writeCfg k v).cfgOf s.cpu n = writtenCfg v n := by
  simp only [cfgIds, List.mem_filter, List.mem_map, List.mem_range, decide_eq_true_eq] at hn
  obtain ⟨⟨j, hj, hjn⟩, h16, hmax⟩ := hn
  have hword : holdsLine .d16 k n = true := by
    simp only [holdsLine, wordIndex, Density.fields, beq_iff_eq]
    omega
  unfold State.cfgOf State.writeCfg
  rw [if_neg (Nat.not_lt.mpr h16)]
  split_ifs with h32
  · rw [State.ppiOf_updSpi, State.ppiOf_updPpi s s.cpu _ s.cpu n h16 h32, if_pos rfl, if_pos hword]
  · rw [State.spiOf_updSpi _ _ n (by omega), State.updPpi_par, if_pos hmax, if_pos hword]

/-- R206: the same write of ICDICFR again passes the check for enabled IDs: it changes no configuration. -/
theorem State.changesEnabled_writeCfg (s : State) (k : Nat) (v : Word) :
    (s.writeCfg k v).changesEnabled k v = false := by
  refine List.any_eq_false.mpr fun n hn => ?_
  have hcfg : (s.writeCfg k v).cfgOf (s.writeCfg k v).cpu n = writtenCfg v n := s.cfgOf_writeCfg v hn
  simp [hcfg]

/-- R206: and the check for busy SPIs. -/
theorem State.changesBusyModel_writeCfg (s : State) (k : Nat) (v : Word) :
    (s.writeCfg k v).changesBusyModel k v = false := by
  refine List.any_eq_false.mpr fun n hn => ?_
  have hcfg : (s.writeCfg k v).cfgOf (s.writeCfg k v).cpu n = writtenCfg v n := s.cfgOf_writeCfg v hn
  simp [State.oneN, hcfg]

/-- R206: after a write of ICDICFR that completes, the same write again completes, and writes what is written. -/
theorem execWrIcdicfr_again {s t : State} {k : Nat} {v : Word} (h : execWrIcdicfr k v s = .next t) (d : Nat)
    (r : Option Word) :
    execWrIcdicfr k v { t with draws := d, rdata := r } = .next { t with draws := d, rdata := r } := by
  obtain ⟨-, -, rfl⟩ := execWrIcdicfr_next h
  have hen : State.changesEnabled { s.writeCfg k v with draws := d, rdata := r } k v = false :=
    s.changesEnabled_writeCfg k v
  have hbusy : State.changesBusyModel { s.writeCfg k v with draws := d, rdata := r } k v = false :=
    s.changesBusyModel_writeCfg k v
  rw [execWrIcdicfr, if_neg (by simp [hen]), if_neg (by simp [hbusy])]
  exact congrArg Host.Outcome.next (s.updPpi_updSpi_again s.cpu d r (fun _ => ite_again fun _ => rfl)
    fun _ => ite_again fun _ => rfl)

/-- Settles O53: each write's update leaves its own results as they are, and ICDICFR's checks pass its own result. -/
theorem writesAreIdempotent : Obligations.WritesAreIdempotent := by
  intro s t k v i d r hi h
  cases i with
  | wrIcddcr => cases h; rfl
  | wrIcdisr | wrIcdipr =>
    cases h
    exact congrArg Host.Outcome.next (s.updSgi_updPpi_updSpi_again s.cpu d r (fun _ => ite_again fun _ => rfl)
      (fun _ => ite_again fun _ => rfl) fun _ => ite_again fun _ => rfl)
  | wrIcdiser | wrIcdicer =>
    cases h
    exact congrArg Host.Outcome.next (s.updPpi_updSpi_again s.cpu d r (fun _ => ite_again fun _ => rfl)
      fun _ => ite_again fun _ => rfl)
  | wrIcdispr =>
    cases h
    exact congrArg Host.Outcome.next (s.updPpi_updSpi_again s.cpu d r (fun _ => ite_again fun _ => rfl)
      fun _ => ite_again fun l => l.latched_latched s.par)
  | wrIcdicpr =>
    cases h
    exact congrArg Host.Outcome.next (s.updPpi_updSpi_again s.cpu d r (fun _ => ite_again fun _ => rfl)
      fun _ => ite_again fun l => l.unlatched_unlatched s.par)
  | wrIcdiptr =>
    cases h
    exact congrArg Host.Outcome.next (s.updSpi_again d r fun _ => ite_again fun _ => rfl)
  | wrIcdicfr => exact execWrIcdicfr_again h d r
  | wrIccicr | wrIccpmr =>
    cases h
    exact congrArg Host.Outcome.next (s.updIf_again s.cpu d r fun _ => rfl)
  | wrIccbpr =>
    cases h
    exact congrArg Host.Outcome.next (s.updIf_again s.cpu d r fun i => i.writeBpr_again _ _ _)
  | wrIccabpr =>
    cases h
    exact congrArg Host.Outcome.next (s.updIf_again s.cpu d r fun i => i.writeAbpr_again _ _ _)
  | _ => simp at hi

end Sys2Proof.Machine
end

section
/-! The step that performs an access (spec/20 R88, spec/30 R109, spec/60 R330). -/

namespace Sys2Proof.Machine

/-- A step of a block that is not halted performs the oldest access. -/
theorem step_access {s : State} {r : Request} {rest : List Event} (hin : s.inbox = .access r :: rest)
    (hfault : s.fault = none) (hrefused : s.refused = false) :
    step s = performAccess r { s with inbox := rest } := by
  have hrun : s.halted = none := by simp [State.halted, hfault, hrefused]
  simp [step, hin, hrun, performEvent]

/-- R109: a Secure access at an address of a window that decodes to `i` is admitted as `i`. -/
theorem admissionOf_admitted {p : Params} {r : Request} {win : Win} {off : BitVec 12} {i : Instr}
    (hcpu : r.cpu.val < p.ncpu) (hsecure : r.secure = true) (hwin : windowOf p r.addr = some (win, off))
    (hdecode : decodeAccess r.dir win off r.width r.data = .ok i) : admissionOf p r = .admitted i := by
  simp [admissionOf, Nat.not_le.mpr hcpu, hwin, hsecure, hdecode]

/-- R109: a Secure access at an address of a window that has a decode error has that error's fault. -/
theorem admissionOf_faulty {p : Params} {r : Request} {win : Win} {off : BitVec 12} {e : DecodeError}
    (hcpu : r.cpu.val < p.ncpu) (hsecure : r.secure = true) (hwin : windowOf p r.addr = some (win, off))
    (hdecode : decodeAccess r.dir win off r.width r.data = .error e) : admissionOf p r = .faulty (faultOf e) := by
  simp [admissionOf, Nat.not_le.mpr hcpu, hwin, hsecure, hdecode]

/-- Settles O36: the access is admitted as what it decodes to, and the step settles what its instruction answers. -/
theorem stepRunsDecodedInstruction : Obligations.StepRunsDecodedInstruction := by
  intro s r rest win off i hin hfault hrefused hcpu hsecure hwin hdecode b
  have hstep : step s = b.settle (exec i b) := by
    have hadmit : admissionOf s.par r = .admitted i := admissionOf_admitted hcpu hsecure hwin hdecode
    rw [step_access hin hfault hrefused, performAccess, hadmit]
  refine ⟨State.forward_eq _ i, fun hack hpeek => ?_, fun t ht => ?_, fun f hf => ?_⟩
  · have hb : b = State.begin { s with inbox := rest } r.cpu := State.start_other _ _ _ hack hpeek
    exact hb ▸ ⟨rfl, rfl, rfl⟩
  · rw [hstep, ht, State.settle]
  · have hnone : b.fault = none := (State.start_fault _ _ _).trans hfault
    rw [hstep, hf, State.settle, State.recordFault, hnone, Option.getD_none]

end Sys2Proof.Machine
end

section
/-! The decode of an access (spec/30 R101 to R109): what a row of the opcode table selects, and that the rows select
exactly the well-formed accesses, each at its own place. -/

namespace Sys2Proof

/-- The key as a number: direction, window, offset (R101). -/
theorem keyOf_toNat (dir : Dir) (win : Win) (off : BitVec 12) :
    (keyOf dir win off).toNat = 0x2000 * dir.bit.toNat + 0x1000 * win.bit.toNat + off.toNat := by
  have hoff := off.isLt
  have hwin := win.bit.isLt
  rw [keyOf, BitVec.toNat_append, BitVec.toNat_append, ← Nat.shiftLeft_add_eq_or_of_lt hoff,
    ← Nat.shiftLeft_add_eq_or_of_lt (by rw [Nat.shiftLeft_eq]; omega), Nat.shiftLeft_eq, Nat.shiftLeft_eq]
  omega

theorem Dir.bit_inj {d1 d2 : Dir} (h : d1.bit = d2.bit) : d1 = d2 := by
  cases d1 <;> cases d2 <;> simp [Dir.bit] at h ⊢

theorem Dir.eq_other {d1 d2 : Dir} (h : d1 ≠ d2) : d1 = d2.other := by
  cases d1 <;> cases d2 <;> simp [Dir.other] at h ⊢

theorem Win.bit_inj {w1 w2 : Win} (h : w1.bit = w2.bit) : w1 = w2 := by
  cases w1 <;> cases w2 <;> simp [Win.bit] at h ⊢

/-- R101: a key determines direction, window and offset. -/
theorem keyOf_inj {d1 d2 : Dir} {w1 w2 : Win} {o1 o2 : BitVec 12} (h : keyOf d1 w1 o1 = keyOf d2 w2 o2) :
    d1 = d2 ∧ w1 = w2 ∧ o1 = o2 := by
  have hnat := congrArg BitVec.toNat h
  rw [keyOf_toNat, keyOf_toNat] at hnat
  have h1 := o1.isLt
  have h2 := o2.isLt
  refine ⟨Dir.bit_inj (BitVec.eq_of_toNat_eq ?_), Win.bit_inj (BitVec.eq_of_toNat_eq ?_), BitVec.eq_of_toNat_eq ?_⟩
    <;> omega

theorem keyIndex_eq (w : Nat) (key : BitVec 14) : keyIndex w key = key.toNat / 4 % 2 ^ w := by
  rw [keyIndex, BitVec.extractLsb'_toNat, Nat.shiftRight_eq_div_pow]

section
variable {w : Nat} {mask : BitVec 14}
  (hmask : ∀ j, j < 14 → mask.getLsbD j = !(decide (2 ≤ j) && decide (j < w + 2)))
include hmask

/-- What a mask without the `w` index bits leaves of a key: the bits above them and the two below. -/
theorem and_mask_toNat (key : BitVec 14) :
    (key &&& mask).toNat = 2 ^ (w + 2) * (key.toNat / 2 ^ (w + 2)) + key.toNat % 2 ^ 2 := by
  have hlow : key.toNat % 2 ^ 2 < 2 ^ (w + 2) :=
    lt_of_lt_of_le (Nat.mod_lt _ (by omega)) (Nat.pow_le_pow_right (by omega) (by omega))
  refine Nat.eq_of_testBit_eq fun j => ?_
  simp only [Nat.testBit_two_pow_mul_add _ hlow, Nat.testBit_mod_two_pow, Nat.testBit_div_two_pow,
    BitVec.testBit_toNat, BitVec.getLsbD_and]
  by_cases hj : j < 14
  · rw [hmask j hj]
    by_cases h1 : j < w + 2
    · by_cases h2 : j < 2
      · simp [h1, h2, Nat.not_le.mpr h2]
      · simp [h1, h2, Nat.not_lt.mp h2]
    · simp [h1, show j - (w + 2) + (w + 2) = j by omega]
  · have hkey : key.getLsbD j = false := BitVec.getLsbD_of_ge _ _ (by omega)
    split_ifs with h1
    · simp [hkey]
    · simp [hkey, show j - (w + 2) + (w + 2) = j by omega]

/-- A key is its part under such a mask, plus four times its index. -/
theorem toNat_eq_and_mask_add_index (key : BitVec 14) : key.toNat = (key &&& mask).toNat + 4 * keyIndex w key := by
  have hhigh := Nat.div_add_mod key.toNat 4
  have hindex := Nat.div_add_mod (key.toNat / 4) (2 ^ w)
  rw [Nat.div_div_eq_div_mul] at hindex
  have hpow : 2 ^ (w + 2) = 4 * 2 ^ w := by ring
  rw [and_mask_toNat hmask, keyIndex_eq, hpow, mul_assoc]
  omega

end

/-- How many bits of the key a row takes as its word index: those its mask leaves out (R102). -/
def Row.indexWidth (r : Row) : Nat := (List.range 14).countP fun j => !r.mask.getLsbD j

/-- The index bits of a row are the lowest above bit 1, and its pattern has none of them (R102). -/
def Row.wellFormed (r : Row) : Bool :=
  (List.range 14).all (fun j => r.mask.getLsbD j == !(decide (2 ≤ j) && decide (j < r.indexWidth + 2))) &&
  r.pattern.toNat % 2 ^ (r.indexWidth + 2) == 0

theorem opcodeRows_wellFormed : ∀ r ∈ opcodeRows, r.wellFormed = true := by decide

theorem Row.wellFormed_iff (r : Row) : r.wellFormed = true ↔
    (∀ j, j < 14 → r.mask.getLsbD j = !(decide (2 ≤ j) && decide (j < r.indexWidth + 2))) ∧
    r.pattern.toNat % 2 ^ (r.indexWidth + 2) = 0 := by
  rw [Row.wellFormed, Bool.and_eq_true, List.all_eq_true, beq_iff_eq]
  simp only [List.mem_range, beq_iff_eq]

/-- No key is selected by two rows: where both masks look, their patterns differ. -/
theorem opcodeRows_disjoint : opcodeRows.Pairwise fun r1 r2 => r1.pattern &&& r2.mask ≠ r2.pattern &&& r1.mask := by
  decide

/-- R101: a row selects a key exactly when the key is the row's pattern but for the index. -/
theorem Row.selects_iff {r : Row} (hr : r.wellFormed = true) (key : BitVec 14) :
    r.selects key = true ↔ key.toNat = r.pattern.toNat + 4 * keyIndex r.indexWidth key := by
  have hkey := toNat_eq_and_mask_add_index (r.wellFormed_iff.mp hr).1 key
  rw [Row.selects, beq_iff_eq, ← BitVec.toNat_inj]
  omega

/-- A key at index `k` of a row is selected, and its index is read as `k`. -/
theorem Row.selects_at {r : Row} (hr : r.wellFormed = true) {k : Nat} {key : BitVec 14} (hk : k < 2 ^ r.indexWidth)
    (hkey : key.toNat = r.pattern.toNat + 4 * k) : r.selects key = true ∧ keyIndex r.indexWidth key = k := by
  have hindex : keyIndex r.indexWidth key = k := by
    obtain ⟨m, hm⟩ := Nat.dvd_of_mod_eq_zero (r.wellFormed_iff.mp hr).2
    have hfour : key.toNat = 4 * (2 ^ r.indexWidth * m + k) := by rw [hkey, hm, pow_add]; ring
    rw [keyIndex_eq, hfour, Nat.mul_div_cancel_left _ (by omega), Nat.mul_add_mod, Nat.mod_eq_of_lt hk]
  exact ⟨(Row.selects_iff hr key).mpr (by rw [hindex, hkey]), hindex⟩

/-- How many bytes a window has (R80). -/
def Win.size : Win → Nat
  | .dist => 0x1000
  | .cpuif => 0x100

theorem Instr.index_lt_words {i : Instr} (h : i.wellFormed = true) : i.index < i.words := of_decide_eq_true h

/-- R104, R105: every register lies in its window. -/
theorem Instr.off_lt {i : Instr} (h : i.wellFormed = true) : i.off < i.win.size := by
  have hindex := i.index_lt_words h
  revert hindex
  cases i <;> simp [Instr.index, Instr.words, Instr.off, Instr.win, Instr.place, Win.size] <;> omega

theorem Instr.off_mod_four (i : Instr) : i.off % 4 = 0 := by
  cases i <;> simp [Instr.off, Instr.place]

theorem Instr.ofNat_off_toNat {i : Instr} (h : i.wellFormed = true) : (BitVec.ofNat 12 i.off).toNat = i.off := by
  have hsize : i.win.size ≤ 0x1000 := by cases i.win <;> decide
  rw [BitVec.toNat_ofNat, Nat.mod_eq_of_lt (lt_of_lt_of_le (i.off_lt h) hsize)]

/-- The key of an access as a number (R101, R104, R105). -/
theorem Instr.key_toNat {i : Instr} (h : i.wellFormed = true) :
    i.key.toNat = 0x2000 * i.dir.bit.toNat + 0x1000 * i.win.bit.toNat + i.off := by
  rw [Instr.key, keyOf_toNat, i.ofNat_off_toNat h]

/-- Access `i` is one of the register map, at the place `key` names, with the data `v` if it is a write. -/
structure Instr.BuiltFrom (i : Instr) (key : BitVec 14) (v : Word) : Prop where
  wellFormed : i.wellFormed = true
  key_eq : i.key = key
  data_eq : i.dir = .wr → i.data = v

/-- R101, R102: what a row builds from a key it selects is an access at that key, with the data given. -/
theorem opcodeRows_build : ∀ r ∈ opcodeRows, ∀ (key : BitVec 14) (v : Word), r.selects key = true →
    (r.build key v).BuiltFrom key v := by
  intro r hr key v h
  have hkey := (Row.selects_iff (opcodeRows_wellFormed r hr) key).mp h
  have hk : keyIndex r.indexWidth key < 2 ^ r.indexWidth := keyIndex_eq _ key ▸ Nat.mod_lt _ (Nat.two_pow_pos _)
  suffices hform : (r.build key v).index < (r.build key v).words ∧
      0x2000 * (r.build key v).dir.bit.toNat + 0x1000 * (r.build key v).win.bit.toNat + (r.build key v).off =
        r.pattern.toNat + 4 * keyIndex r.indexWidth key ∧
      ((r.build key v).dir = .wr → (r.build key v).data = v) by
    obtain ⟨hindex, hplace, hdata⟩ := hform
    have hwf : (r.build key v).wellFormed = true := decide_eq_true hindex
    exact ⟨hwf, BitVec.eq_of_toNat_eq (by rw [Instr.key_toNat hwf, hplace, hkey]), hdata⟩
  clear h hkey
  simp only [opcodeRows, rowsDistGlobal, rowsLineBits, rowsLineFields, rowsSgiAndIds, rowsCpuInterface,
    List.cons_append, List.nil_append] at hr
  -- Row by row, the place of the access built is the row's pattern and index.
  fin_cases hr
  all_goals
    simp [Row.indexWidth, List.range_succ, Instr.index, Instr.words, Instr.dir, Instr.win, Instr.off, Instr.place,
      Instr.data, Dir.bit, Win.bit] at hk ⊢
    omega

/-- R101, R104, R105: every access of the register map has a row, which selects its key and builds it. -/
theorem exists_row {i : Instr} (h : i.wellFormed = true) :
    ∃ r ∈ opcodeRows, r.selects i.key = true ∧ r.build i.key i.data = i := by
  have hkey := i.key_toNat h
  have hindex := i.index_lt_words h
  simp only [opcodeRows, rowsDistGlobal, rowsLineBits, rowsLineFields, rowsSgiAndIds, rowsCpuInterface,
    List.cons_append, List.nil_append, List.exists_mem_cons_iff]
  -- Of the rows, only the access's own builds its constructor; what is left is that this row selects the key, and, for
  -- an array, reads its index.
  cases i with
  | rdIcdisr k | wrIcdisr k | rdIcdiser k | wrIcdiser k | rdIcdicer k | wrIcdicer k | rdIcdispr k | wrIcdispr k
  | rdIcdicpr k | wrIcdicpr k | rdIcdabr k | rdIcdipr k | wrIcdipr k | rdIcdiptr k | wrIcdiptr k | rdIcdicfr k
  | wrIcdicfr k | rdPidr47 k | rdPidr03 k | rdCidr k =>
    simp [Instr.data]
    refine Row.selects_at (k := k) (by decide) hindex (hkey.trans ?_)
    simp [Instr.dir, Instr.win, Instr.off, Instr.place, Dir.bit, Win.bit] <;> omega
  | _ =>
    simp [Instr.data]
    refine (Row.selects_at (k := 0) (by decide) (Nat.two_pow_pos _) (hkey.trans ?_)).1
    simp [Instr.dir, Instr.win, Instr.off, Instr.place, Dir.bit, Win.bit]

/-- R109: at most one row selects a key. -/
theorem Row.eq_of_selects {r1 r2 : Row} (h1 : r1 ∈ opcodeRows) (h2 : r2 ∈ opcodeRows) {key : BitVec 14}
    (hs1 : r1.selects key = true) (hs2 : r2.selects key = true) : r1 = r2 := by
  by_contra hne
  have hsymm : Std.Symm fun r1 r2 : Row => r1.pattern &&& r2.mask ≠ r2.pattern &&& r1.mask :=
    ⟨fun _ _ h => h.symm⟩
  refine opcodeRows_disjoint.forall h1 h2 hne ?_
  rw [← beq_iff_eq.mp hs1, ← beq_iff_eq.mp hs2, BitVec.and_assoc, BitVec.and_assoc, BitVec.and_comm r1.mask]

/-- What the table finds at a key is an access at that key, with the data given. -/
theorem lookup_builtFrom {key : BitVec 14} {v : Word} {i : Instr} (h : lookup key v = some i) : i.BuiltFrom key v := by
  obtain ⟨r, hfind, rfl⟩ := Option.map_eq_some_iff.mp h
  exact opcodeRows_build r (List.mem_of_find?_eq_some hfind) key v
    (List.find?_some (p := fun r : Row => r.selects key) hfind)

/-- Whether the table finds an access does not depend on the data. -/
theorem lookup_isSome (key : BitVec 14) (v v2 : Word) : (lookup key v).isSome = (lookup key v2).isSome := by
  simp only [lookup, Option.isSome_map]

/-- R101, R102: the table finds every access of the register map at its key. -/
theorem lookup_key {i : Instr} (h : i.wellFormed = true) : lookup i.key i.data = some i := by
  obtain ⟨r, hr, hselects, hbuild⟩ := exists_row h
  obtain ⟨r2, hfind⟩ : ∃ r2, opcodeRows.find? (fun r => r.selects i.key) = some r2 :=
    Option.isSome_iff_exists.mp (List.find?_isSome.mpr ⟨r, hr, hselects⟩)
  have hsame : r2 = r := Row.eq_of_selects (List.mem_of_find?_eq_some hfind) hr
    (List.find?_some (p := fun r : Row => r.selects i.key) hfind) hselects
  rw [lookup, hfind, hsame, Option.map_some, hbuild]

/-- What is built from a key lies where the key says. -/
theorem Instr.BuiltFrom.place {i : Instr} {dir : Dir} {win : Win} {off : BitVec 12} {v : Word}
    (h : i.BuiltFrom (keyOf dir win off) v) : i.dir = dir ∧ i.win = win ∧ i.off = off.toNat := by
  obtain ⟨hdir, hwin, hoff⟩ := keyOf_inj h.key_eq
  exact ⟨hdir, hwin, by rw [← hoff, i.ofNat_off_toNat h.wellFormed]⟩

/-- R101: an access's key, from its place. -/
theorem Instr.key_of_place {i : Instr} {dir : Dir} {win : Win} {off : BitVec 12} (hdir : i.dir = dir)
    (hwin : i.win = win) (hoff : i.off = off.toNat) : i.key = keyOf dir win off := by
  rw [Instr.key, hdir, hwin, hoff, BitVec.ofNat_toNat, BitVec.setWidth_eq]

theorem lookup_eq_none {dir : Dir} {win : Win} {off : BitVec 12} (v : Word)
    (h : ∀ i : Instr, i.wellFormed = true → ¬ (i.dir = dir ∧ i.win = win ∧ i.off = off.toNat)) :
    lookup (keyOf dir win off) v = none := by
  refine Option.eq_none_iff_forall_ne_some.mpr fun i hi => ?_
  have hbuilt := lookup_builtFrom hi
  exact h i hbuilt.wellFormed hbuilt.place

/- The decode of an aligned 32-bit access, by what the table finds in its own direction and in the other (R109). -/

section
variable {dir : Dir} {win : Win} {off : BitVec 12} {v : Word} (halign : off.toNat % 4 = 0)
include halign

theorem decodeAccess_found {i : Instr} (h : lookup (keyOf dir win off) v = some i) :
    decodeAccess dir win off 32 v = .ok i := by
  simp [decodeAccess, halign, h]

theorem decodeAccess_wrongDirection {i : Instr} (h : lookup (keyOf dir win off) v = none)
    (hother : lookup (keyOf dir.other win off) v = some i) :
    decodeAccess dir win off 32 v = .error (if dir = .wr then .writeToReadOnly else .readOfWriteOnly) := by
  cases dir <;> simp [decodeAccess, halign, h, hother]

theorem decodeAccess_unmapped (h : lookup (keyOf dir win off) v = none)
    (hother : lookup (keyOf dir.other win off) v = none) : decodeAccess dir win off 32 v = .error .unmappedOffset := by
  simp [decodeAccess, halign, h, hother]

end

/-- R101, R109: every access of the register map decodes at its own place. -/
theorem decodeAccess_place {i : Instr} (h : i.wellFormed = true) :
    decodeAccess i.dir i.win (BitVec.ofNat 12 i.off) 32 i.data = .ok i := by
  have halign : (BitVec.ofNat 12 i.off).toNat % 4 = 0 := by rw [i.ofNat_off_toNat h, i.off_mod_four]
  exact decodeAccess_found halign (lookup_key h)

end Sys2Proof
end

section
/-! From a request to its register, and the decode faults (spec/20 R80, R84, R87, spec/30 R109, R112). -/

namespace Sys2Proof.Machine

/-- R80: with legal parameters, an address in a window is found there. -/
theorem windowOf_windowBase {p : Params} (hlegal : p.legal = true) {win : Win} {off : Nat} (hoff : off < win.size) :
    windowOf p (windowBase p win + off) = some (win, BitVec.ofNat 12 off) := by
  simp only [Params.legal, Bool.and_eq_true, Bool.or_eq_true, decide_eq_true_eq] at hlegal
  obtain ⟨-, hapart⟩ := hlegal
  cases win with
  | dist =>
    simp only [Win.size] at hoff
    rw [windowOf, windowBase, if_pos (by omega), Nat.add_sub_cancel_left]
  | cpuif =>
    simp only [Win.size] at hoff
    rw [windowOf, windowBase, if_neg (by omega), if_pos (by omega), Nat.add_sub_cancel_left]

/-- Settles O37: the request's address is found in its window, and the access decodes at its own place. -/
theorem requestReachesItsRegister : Obligations.RequestReachesItsRegister := by
  intro par i c hlegal hwf hcpu
  exact admissionOf_admitted hcpu rfl (windowOf_windowBase hlegal (i.off_lt hwf)) (decodeAccess_place hwf)

/-- Settles O38: the decoder finds nothing where no access lies, and the step records the decode error's fault. -/
theorem decodeFaults : Obligations.DecodeFaults := by
  refine ⟨fun dir win off width v =>
      ⟨fun hbad => ?_, fun hwidth halign hnone => ?_, fun hwidth halign hdir hsome => ?_⟩,
    fun s r rest win off e hin hfault hrefused hcpu hsecure hwin hdecode => ?_⟩
  · simp only [decodeAccess, if_pos hbad]
  · subst hwidth
    have hlookup : ∀ d : Dir, lookup (keyOf d win off) v = none := fun d =>
      lookup_eq_none v fun i hi h => hnone i hi h.2
    exact decodeAccess_unmapped halign (hlookup dir) (hlookup dir.other)
  · subst hwidth
    obtain ⟨i, hwf, hiwin, hioff⟩ := hsome
    have hother : i.dir = dir.other := Dir.eq_other fun h => hdir i hwf ⟨h, hiwin, hioff⟩
    have hfound : (lookup (keyOf dir.other win off) v).isSome = true := by
      rw [← i.key_of_place hother hiwin hioff, lookup_isSome _ v i.data, lookup_key hwf, Option.isSome_some]
    obtain ⟨j, hj⟩ := Option.isSome_iff_exists.mp hfound
    exact decodeAccess_wrongDirection halign (lookup_eq_none v hdir) hj
  · refine ⟨faultOf e, ?_, ?_⟩
    · have hadmit : admissionOf s.par r = .faulty (faultOf e) := admissionOf_faulty hcpu hsecure hwin hdecode
      rw [step_access hin hfault hrefused, performAccess, hadmit]
      simp only [State.recordFault, State.begin, hfault, Option.getD_none]
    · exact ⟨fun h => h ▸ rfl, fun h => h ▸ rfl, fun h => h ▸ rfl, fun h => h ▸ rfl⟩

end Sys2Proof.Machine
end

section
/-! The six-byte record of an access and the decoder's answers (spec/30 R101 to R109, log 11). -/

namespace Sys2Proof

/-- R83: bytes `k` to `k + n - 1` of a value, put together again. -/
theorem ofBytes_map_byteAt (w n k : Nat) : ofBytes ((List.range' k n).map (byteAt w)) = w / 256 ^ k % 256 ^ n := by
  induction n generalizing k with
  | zero => rw [pow_zero, Nat.mod_one]; rfl
  | succ n ih =>
    rw [List.range'_succ, List.map_cons, ofBytes, ih, byteAt, BitVec.toNat_ofNat, pow_succ 256 k,
      ← Nat.div_div_eq_div_mul, pow_succ' 256 n, Nat.mod_mul]

theorem ofBytes_byteAt_of_lt {w n : Nat} (h : w < 256 ^ n) : ofBytes ((List.range' 0 n).map (byteAt w)) = w := by
  rw [ofBytes_map_byteAt, pow_zero, Nat.div_one, Nat.mod_eq_of_lt h]

/-- R101: the low 12 bits of a key are its offset. -/
theorem ofNat_keyOf_toNat (dir : Dir) (win : Win) (off : BitVec 12) :
    BitVec.ofNat 12 (keyOf dir win off).toNat = off := by
  have hoff := off.isLt
  refine BitVec.eq_of_toNat_eq ?_
  rw [BitVec.toNat_ofNat, keyOf_toNat]
  omega

/-- Log 11: the record of an access is decoded as its direction, window, offset and data, 32 bits wide. -/
theorem decode_encode_eq_decodeAccess {i : Instr} (h : i.wellFormed = true) :
    decode i.encode = decodeAccess i.dir i.win (BitVec.ofNat 12 i.off) 32 i.data := by
  obtain ⟨hdirBit, hwinBit, -⟩ := Laws.keyForm_of i i.off_mod_four h
  have hkey : ofBytes [byteAt i.key.toNat 0, byteAt i.key.toNat 1] = i.key.toNat :=
    ofBytes_byteAt_of_lt (n := 2) (by have := i.key.isLt; omega)
  have hdata : ofBytes [byteAt i.data.toNat 0, byteAt i.data.toNat 1, byteAt i.data.toNat 2, byteAt i.data.toNat 3] =
      i.data.toNat := ofBytes_byteAt_of_lt (n := 4) (by have := i.data.isLt; omega)
  have hdir : (if i.dir == .wr then Dir.wr else .rd) = i.dir := by cases i.dir <;> rfl
  have hwin : (if i.win == .cpuif then Win.cpuif else .dist) = i.win := by cases i.win <;> rfl
  have hoff : BitVec.ofNat 12 i.key.toNat = BitVec.ofNat 12 i.off := ofNat_keyOf_toNat _ _ _
  simp only [Instr.encode, decode, hkey, hdata, if_neg (Nat.not_le.mpr i.key.isLt), BitVec.testBit_toNat, hdirBit, hdir,
    hwinBit, hwin, hoff, BitVec.ofNat_toNat, BitVec.setWidth_eq]

/-- R109: an access decodes exactly when it is 32 bits wide and aligned and the table finds it. -/
theorem decodeAccess_eq_ok_iff {dir : Dir} {win : Win} {off : BitVec 12} {width : Nat} {v : Word} {i : Instr} :
    decodeAccess dir win off width v = .ok i ↔
      width = 32 ∧ off.toNat % 4 = 0 ∧ lookup (keyOf dir win off) v = some i := by
  constructor
  · intro h
    unfold decodeAccess at h
    split at h
    · cases h
    next hok =>
      obtain ⟨hwidth, halign⟩ := not_or.mp hok
      split at h
      next j hj =>
        cases h
        exact ⟨not_not.mp hwidth, not_not.mp halign, hj⟩
      · split at h <;> cases h
  · rintro ⟨rfl, halign, hfound⟩
    exact decodeAccess_found halign hfound

/-- A word that is the record of an access decodes to it (log 11). -/
theorem decodeTableWord_of_encode {nbits w : Nat} {i : Instr} (h : i.wellFormed = true)
    (hbytes : tableBytes nbits w = i.encode) : decodeTableWord nbits w = some i := by
  rw [decodeTableWord, hbytes, decode_encode_eq_decodeAccess h, decodeAccess_place h]

end Sys2Proof
end

section
/-! Decode and encode agree, the decoder is exact, and the rows of the table are apart (spec/30 R101 to R109). -/

namespace Sys2Proof.Machine

/-- Settles O43: the record holds the access's place and data, where the table finds the access. -/
theorem decodeOfEncode : Obligations.DecodeOfEncode :=
  fun _ hwf => ⟨(decode_encode_eq_decodeAccess hwf).trans (decodeAccess_place hwf), decodeAccess_place hwf⟩

/-- Settles O44: what decodes was found in the table, and what the table finds lies at the key it was asked for. -/
theorem decodeIsExact : Obligations.DecodeIsExact := by
  intro dir win off width v i h
  obtain ⟨hwidth, -, hfound⟩ := decodeAccess_eq_ok_iff.mp h
  have hbuilt := lookup_builtFrom hfound
  obtain ⟨hdir, hwin, hoff⟩ := hbuilt.place
  exact ⟨hwidth, hbuilt.wellFormed, hdir, hwin, hoff, fun hwr => hbuilt.data_eq (hdir.trans hwr)⟩

/-- Settles O45: two rows that select one key are the same row, and no row stands in the table twice. -/
theorem rowsDoNotOverlap : Obligations.RowsDoNotOverlap :=
  opcodeRows_disjoint.imp_of_mem fun h1 h2 hne _ hsel => hne (by rw [Row.eq_of_selects h1 h2 hsel.1 hsel.2])

/-- Settles O42: the eight words are the records of their accesses; the last three select no row. -/
theorem tableWordsDecode : Obligations.TableWordsDecode := by
  refine ⟨?_, ?_, ?_, ?_, ?_, ?_, ?_, ?_, by decide, by decide, by decide⟩
  all_goals exact decodeTableWord_of_encode (by decide) (by decide)

end Sys2Proof.Machine
end

section
/-! What the addressing layer does, bit by bit (spec/40 R130 to R137). -/

namespace Sys2Proof.Machine

theorem Density.fields_pos (d : Density) : 0 < d.fields := by cases d <;> decide

theorem Density.width_le (d : Density) : d.width ≤ 32 := Nat.div_le_self ..

/-- R133: the field of an ID ends inside the word. -/
theorem bitShift_add_width_le (n : Nat) (d : Density) : bitShift n d + d.width ≤ 32 :=
  calc bitShift n d + d.width
    _ = (n % d.fields + 1) * d.width := (Nat.succ_mul ..).symm
    _ ≤ d.fields * d.width := Nat.mul_le_mul_right _ (Nat.mod_lt n d.fields_pos)
    _ = 32 := d.fields_mul_width

/-- R133: the bits of the field of an ID, by the number of their field in the word. -/
theorem bitShift_le_and_lt_iff (n : Nat) (d : Density) (j : Nat) :
    bitShift n d ≤ j ∧ j < bitShift n d + d.width ↔ j / d.width = n % d.fields := by
  rw [Nat.div_eq_iff d.width_pos]
  have hw := d.width_pos
  simp only [bitShift]
  omega

/-- R134: the low ones that the mask holds at its shift. -/
theorem lowOnes_getLsbD (d : Density) (j : Nat) :
    (BitVec.ofNat 32 (2 ^ d.width - 1)).getLsbD j = decide (j < d.width) := by
  rw [BitVec.getLsbD_ofNat, Nat.testBit_two_pow_sub_one, Bool.and_eq_right_iff_imp]
  simpa using fun hj => Nat.lt_of_lt_of_le hj d.width_le

/-- R134. -/
theorem bitMask_getLsbD (n : Nat) (d : Density) (j : Nat) :
    (bitMask n d).getLsbD j = (decide (bitShift n d ≤ j) && decide (j < bitShift n d + d.width)) := by
  have hfit := bitShift_add_width_le n d
  rw [bitMask, BitVec.getLsbD_ofNat, Nat.testBit_mul_two_pow, Nat.testBit_two_pow_sub_one, Bool.eq_iff_iff]
  simp only [Bool.and_eq_true, decide_eq_true_eq]
  omega

theorem bitMask_getLsbD_eq_true_iff (n : Nat) (d : Density) (j : Nat) :
    (bitMask n d).getLsbD j = true ↔ j / d.width = n % d.fields := by
  rw [bitMask_getLsbD, ← bitShift_le_and_lt_iff, Bool.and_eq_true, decide_eq_true_eq, decide_eq_true_eq]

/-- R140 (3): two IDs of one word have different fields of it. -/
theorem mod_fields_ne_of_wordIndex_eq {n m : Nat} {d : Density} (hne : n ≠ m) (hword : wordIndex n d = wordIndex m d) :
    n % d.fields ≠ m % d.fields :=
  fun hmod => hne (Nat.ext_div_mod hword hmod)

/-- R140 (3). -/
theorem bitMask_and_eq_zero {n m : Nat} {d : Density} (hne : n ≠ m) (hword : wordIndex n d = wordIndex m d) :
    bitMask n d &&& bitMask m d = 0 := by
  apply BitVec.eq_of_getLsbD_eq
  intro j _
  have hmod := mod_fields_ne_of_wordIndex_eq hne hword
  rw [BitVec.ofNat_eq_ofNat, BitVec.getLsbD_zero, BitVec.getLsbD_and, Bool.eq_false_iff, ne_eq, Bool.and_eq_true,
    bitMask_getLsbD_eq_true_iff, bitMask_getLsbD_eq_true_iff]
  exact fun h => hmod (h.1.symm.trans h.2)

/-- R140 (6): bit `j` of word `k` is in the mask of the ID whose field number is `j / w(d)`. -/
theorem exists_bitMask_getLsbD (d : Density) (k : Nat) {j : Nat} (hj : j < 32) :
    ∃ i, i < d.fields ∧ (bitMask (d.fields * k + i) d).getLsbD j = true := by
  have hi : j / d.width < d.fields := by
    rwa [Nat.div_lt_iff_lt_mul d.width_pos, d.fields_mul_width]
  exact ⟨j / d.width, hi, by rw [bitMask_getLsbD_eq_true_iff, Nat.mul_add_mod, Nat.mod_eq_of_lt hi]⟩

/-- R136: a field read is the word's bits at the shift, moved down. -/
theorem fieldGet_getLsbD (x : Word) (n : Nat) (d : Density) (j : Nat) :
    (fieldGet x n d).getLsbD j = (decide (j < d.width) && x.getLsbD (bitShift n d + j)) := by
  rw [fieldGet, BitVec.getLsbD_ushiftRight, BitVec.getLsbD_and, bitMask_getLsbD, Bool.and_comm]
  simp

/-- R137: a field write takes the bits of the mask from the value, moved up, and the others from the word. -/
theorem fieldPut_getLsbD (x v : Word) (n : Nat) (d : Density) {j : Nat} (hj : j < 32) :
    (fieldPut x n d v).getLsbD j =
      if (bitMask n d).getLsbD j then v.getLsbD (j - bitShift n d) else x.getLsbD j := by
  rw [fieldPut, BitVec.getLsbD_or, BitVec.getLsbD_and, BitVec.getLsbD_and, BitVec.getLsbD_not, BitVec.getLsbD_shiftLeft]
  by_cases hmask : (bitMask n d).getLsbD j = true
  · have hle : bitShift n d ≤ j := by
      rw [bitMask_getLsbD_eq_true_iff, ← bitShift_le_and_lt_iff] at hmask
      exact hmask.1
    simp [hmask, hj, hle, -BitVec.getLsbD_eq_getElem]
  · simp [hmask, hj, -BitVec.getLsbD_eq_getElem]

/-- R140 (4). -/
theorem fieldGet_fieldPut_same (x v : Word) (n : Nat) (d : Density) :
    fieldGet (fieldPut x n d v) n d = v &&& BitVec.ofNat 32 (2 ^ d.width - 1) := by
  apply BitVec.eq_of_getLsbD_eq
  intro j _
  rw [fieldGet_getLsbD, BitVec.getLsbD_and, lowOnes_getLsbD, Bool.and_comm]
  by_cases hj : j < d.width
  · have hfit := bitShift_add_width_le n d
    have hmask : (bitMask n d).getLsbD (bitShift n d + j) = true := by simp [bitMask_getLsbD, hj]
    rw [fieldPut_getLsbD _ _ _ _ (by omega), if_pos hmask, Nat.add_sub_cancel_left]
  · simp [hj]

/-- R140 (5). -/
theorem fieldGet_fieldPut_other (x v : Word) {n m : Nat} {d : Density} (hne : n ≠ m)
    (hword : wordIndex n d = wordIndex m d) : fieldGet (fieldPut x n d v) m d = fieldGet x m d := by
  apply BitVec.eq_of_getLsbD_eq
  intro j _
  rw [fieldGet_getLsbD, fieldGet_getLsbD]
  by_cases hj : j < d.width
  · have hfit := bitShift_add_width_le m d
    have hfield : (bitShift m d + j) / d.width = m % d.fields := by rw [← bitShift_le_and_lt_iff]; omega
    have hmask : ¬ (bitMask n d).getLsbD (bitShift m d + j) = true := by
      rw [bitMask_getLsbD_eq_true_iff, hfield]
      exact (mod_fields_ne_of_wordIndex_eq hne hword).symm
    rw [fieldPut_getLsbD _ _ _ _ (by omega), if_neg hmask]
  · simp [hj]

/-- Settles O46: bit `j` is in the mask of an ID exactly when `j / w(d)` is the ID's field number. -/
theorem masksPartitionTheWord : Obligations.MasksPartitionTheWord := by
  intro n m d
  have hshift : bitShift n d < 32 := by
    have hfit := bitShift_add_width_le n d
    have hw := d.width_pos
    omega
  exact ⟨hshift, bitMask_getLsbD n d, Iff.rfl, bitMask_and_eq_zero, fun k _ => exists_bitMask_getLsbD d k⟩

/-- Settles O47: a put changes the bits of its own mask, and a get of another ID of the word reads none of them. -/
theorem fieldPutGet : Obligations.FieldPutGet :=
  fun x v n _ d => ⟨fieldGet_fieldPut_same x v n d, fieldGet_fieldPut_other x v⟩

end Sys2Proof.Machine
end

section
/-! The single registers of the Distributor (spec/41 R150 to R157, spec/45 R247): the words they return, bit by bit and as
numbers. -/

namespace Sys2Proof.Machine

/-- A one-bit field of a register word. -/
theorem flag_getLsbD (b : Bool) {i : Nat} (hi : i < 32) (j : Nat) :
    (if b then BitVec.ofNat 32 (2 ^ i) else 0 : Word).getLsbD j = (decide (j = i) && b) := by
  cases b with
  | false => simp
  | true =>
    rw [if_pos rfl, BitVec.getLsbD_ofNat, Nat.testBit_two_pow, Bool.and_true, Bool.eq_iff_iff]
    simp only [Bool.and_eq_true, decide_eq_true_eq]
    omega

/-- R150: each enable has a bit of its own, and no other bit is set. -/
theorem State.dcrWord_getLsbD (s : State) (j : Nat) :
    s.dcrWord.getLsbD j = (decide (j = 0) && s.dcrEn0 || decide (j = 1) && s.dcrEn1) := by
  rw [State.dcrWord, BitVec.getLsbD_or]
  exact congrArg₂ (· || ·) (flag_getLsbD s.dcrEn0 (i := 0) (by decide) j) (flag_getLsbD s.dcrEn1 (i := 1) (by decide) j)

/-- R151: the enables that a write takes from `v` read back as the two low bits of `v`. -/
theorem State.dcrWord_of_written (s : State) (v : Word) :
    State.dcrWord { s with dcrEn0 := v.getLsbD 0, dcrEn1 := v.getLsbD 1 } = v &&& 3 := by
  apply BitVec.eq_of_getLsbD_eq
  intro j _
  have hthree : (3 : Word).getLsbD j = decide (j < 2) := lowOnes_getLsbD .d16 j
  rw [State.dcrWord_getLsbD, BitVec.getLsbD_and, hthree]
  match j with
  | 0 | 1 => simp
  | j + 2 => simp

/-- A field placed above the bits a word uses is added to it. -/
theorem or_shiftLeft_toNat {x : Word} {a b k : Nat} (hx : x.toNat = a) (ha : a < 2 ^ k) (hb : b * 2 ^ k < 2 ^ 32) :
    (x ||| BitVec.ofNat 32 b <<< k).toNat = a + 2 ^ k * b := by
  have hfits : b < 2 ^ 32 := (Nat.le_mul_of_pos_right b (Nat.two_pow_pos k)).trans_lt hb
  rw [BitVec.toNat_or, BitVec.toNat_shiftLeft, BitVec.toNat_ofNat, Nat.mod_eq_of_lt hfits, hx, Nat.shiftLeft_eq,
    Nat.mod_eq_of_lt hb, Nat.or_comm, Nat.mul_comm, ← Nat.two_pow_add_eq_or_of_lt ha, Nat.add_comm]

/-- R152: the fields of ICDICTR do not overlap, so the word is their sum. -/
theorem typeWord_toNat (p : Params) :
    (typeWord p).toNat = p.itl.val + 32 * (p.ncpu - 1) + 1024 + 2048 * p.lspi.val := by
  have hitl := p.itl.isLt
  have hcpu : p.ncpu - 1 < 8 := p.cpuNumber.isLt
  have hlspi := p.lspi.isLt
  have itlField : (BitVec.ofNat 32 p.itl.val).toNat = p.itl.val := Nat.mod_eq_of_lt (by omega)
  have withCpus := or_shiftLeft_toNat (b := p.ncpu - 1) (k := 5) itlField (by omega) (by omega)
  have withSecurity := or_shiftLeft_toNat (b := 1) (k := 10) withCpus (by omega) (by omega)
  exact or_shiftLeft_toNat (b := p.lspi.val) (k := 11) withSecurity (by omega) (by omega)

/-- R157: bits 4..0 of ICDICTR give the number of lines. -/
theorem maxLinesOf_typeWord (p : Params) : maxLinesOf (typeWord p) = p.maxl := by
  have hitl := p.itl.isLt
  rw [maxLinesOf, BitVec.extractLsb'_toNat, typeWord_toNat, Nat.shiftRight_zero, Params.maxl]
  omega

/-- R157: bits 7..5 of ICDICTR give the number of CPUs. -/
theorem cpuCountOf_typeWord (p : Params) : cpuCountOf (typeWord p) = p.ncpu := by
  have hitl := p.itl.isLt
  have hcpu := p.cpuNumber.isLt
  rw [cpuCountOf, BitVec.extractLsb'_toNat, typeWord_toNat, Nat.shiftRight_eq_div_pow, Params.ncpu]
  omega

/-- R154 to R156: an index of the table names one of its bytes. -/
theorem idWord_of_lt {k : Nat} (ids : Vector Byte k) {i : Nat} (h : i < k) : idWord ids i = (ids[i]).setWidth 32 := by
  rw [idWord, tabGet_of_lt _ _ _ h]

/-- Settles O3: the returned word is the sum of its fields, and each derived count divides out its own field. -/
theorem readTypeRegister : Obligations.ReadTypeRegister :=
  fun s => ⟨typeWord s.par, rfl, typeWord_toNat s.par, maxLinesOf_typeWord s.par, cpuCountOf_typeWord s.par⟩

/-- Settles O1: the bits of the returned word. -/
theorem readDistributorControl : Obligations.ReadDistributorControl := by
  intro s
  refine ⟨s.dcrWord, rfl, ?_, ?_, fun j hj => ?_⟩
  · simp [State.dcrWord_getLsbD, -BitVec.getLsbD_eq_getElem]
  · simp [State.dcrWord_getLsbD, -BitVec.getLsbD_eq_getElem]
  · simp [State.dcrWord_getLsbD, show j ≠ 0 by omega, show j ≠ 1 by omega]

/-- Settles O2: the next state is the written one, and its enables are the two low bits of the data. -/
theorem writeDistributorControl : Obligations.WriteDistributorControl :=
  fun s v => ⟨_, rfl, rfl, State.dcrWord_of_written s v ▸ rfl⟩

/-- Settles O4: the identification words are fields of the parameters, the bytes by their index. -/
theorem readIdentification : Obligations.ReadIdentification := by
  intro s
  refine ⟨rfl, rfl, fun k h => ⟨?_, ?_, ?_⟩⟩
  · rw [← idWord_of_lt s.par.pidr]
    rfl
  · rw [← idWord_of_lt s.par.pidr]
    rfl
  · rw [← idWord_of_lt s.par.cidr]
    rfl

end Sys2Proof.Machine
end

section
/-! Reads of the bit arrays of the Distributor (spec/42 R170 to R183): the word a read returns shows one bit of each
line of its word, and what that bit says of the line's own fields. -/

namespace Sys2Proof.Machine

/-- R170: a read that shows `f` returns in bit `j` what `f` says of ID `32 * k + j`. -/
theorem State.returnsBits_of_readBits {s : State} {i : Instr} {k : Nat} {f : Nat → Bool} {bit : Nat → Prop}
    (hread : exec i s = s.readBits k f) (hbit : ∀ n, f n = true ↔ bit n) : s.ReturnsBits i k bit := by
  refine ⟨bitword s.par.maxl k f, hread, fun j hj => ?_⟩
  rw [bitword_getLsbD, ← hbit]
  simp [hj]

/-- A check of the implemented CPUs passes exactly when one of them passes it. -/
theorem any_cpus_eq_true_iff (p : Params) (f : CpuId → Bool) :
    p.cpus.any f = true ↔ ∃ c : CpuId, c.val < p.ncpu ∧ f c = true := by
  simp only [List.any_eq_true, mem_cpus]

/-- R40: the configuration of a PPI. -/
theorem State.cfgOf_ppi {s : State} {c : CpuId} {n : Nat} (h1 : 16 ≤ n) (h2 : n < 32) :
    s.cfgOf c n = (s.ppiOf c n).cfg := by
  rw [State.cfgOf, if_neg (Nat.not_lt.mpr h1), if_pos h2]

/-- R40: the configuration of an SPI. -/
theorem State.cfgOf_spi {s : State} {c : CpuId} {n : Nat} (h : 32 ≤ n) : s.cfgOf c n = (s.spiOf n).cfg := by
  rw [State.cfgOf, if_neg (by omega), if_neg (Nat.not_lt.mpr h)]

section

variable (s : State) (c : CpuId) (n : Nat)

/-- R37: the security bit, by the class of the ID. -/
theorem State.sec_eq_true_iff : s.sec c n = true ↔
    if n < 16 then (s.sgiOf c n).sec = true
    else if n < 32 then (s.ppiOf c n).sec = true else (s.spiOf n).sec = true := by
  unfold State.sec
  split_ifs <;> rfl

/-- R36: the enable bit, which every SGI has set. -/
theorem State.en_eq_true_iff : s.en c n = true ↔
    n < 16 ∨ (if n < 32 then (s.ppiOf c n).en = true else (s.spiOf n).en = true) := by
  unfold State.en
  split_ifs with hsgi <;> simp [hsgi]

/-- R182: the pending view, by the class of the ID. -/
theorem State.pendView_eq_true_iff : s.pendView c n = true ↔
    if n < 16 then ∃ src : CpuId, src.val < s.par.ncpu ∧ (s.sgiOf c n).pend[src] = true
    else if n < 32 then
      (s.ppiOf c n).latch = true ∨ ((s.ppiOf c n).cfg.getLsbD 1 = false ∧ (s.ppiOf c n).level = true)
    else if (s.spiOf n).cfg.getLsbD 0 = true then
      (s.spiOf n).latch1 = true ∨ ((s.spiOf n).cfg.getLsbD 1 = false ∧ (s.spiOf n).level = true)
    else
      (∃ c2 : CpuId, c2.val < s.par.ncpu ∧ (s.spiOf n).latchN[c2] = true) ∨
      ((s.spiOf n).cfg.getLsbD 1 = false ∧ (s.spiOf n).level = true) := by
  unfold State.pendView
  by_cases hsgi : n < 16
  · simp only [if_pos hsgi, any_cpus_eq_true_iff]
  by_cases hppi : n < 32
  · simp only [if_neg hsgi, if_pos hppi, State.isLevel, State.isEdge, State.cfgOf_ppi (Nat.not_lt.mp hsgi) hppi,
      Bool.or_eq_true, Bool.and_eq_true, Bool.not_eq_true']
  · simp only [if_neg hsgi, if_neg hppi, State.oneN, State.isLevel, State.isEdge, State.cfgOf_spi (Nat.not_lt.mp hppi)]
    split_ifs <;> simp only [Bool.or_eq_true, Bool.and_eq_true, Bool.not_eq_true', any_cpus_eq_true_iff]

/-- R183: the active view, by the class of the ID. -/
theorem State.actView_eq_true_iff : s.actView c n = true ↔
    if n < 16 then (s.sgiOf c n).act ≠ none
    else if n < 32 then (s.ppiOf c n).act = true
    else if (s.spiOf n).cfg.getLsbD 0 = true then (s.spiOf n).act1 ≠ none
    else ∃ c2 : CpuId, c2.val < s.par.ncpu ∧ (s.spiOf n).actN[c2] = true := by
  unfold State.actView
  by_cases hsgi : n < 16
  · simp only [if_pos hsgi, Option.isSome_iff_ne_none]
  by_cases hppi : n < 32
  · simp only [if_neg hsgi, if_pos hppi]
  · simp only [if_neg hsgi, if_neg hppi, State.oneN, State.cfgOf_spi (Nat.not_lt.mp hppi)]
    split_ifs <;> simp only [Option.isSome_iff_ne_none, any_cpus_eq_true_iff]

end

/-- Settles O5: the three reads show the security and the enable bits. -/
theorem readSecurityAndEnables : Obligations.ReadSecurityAndEnables := fun s _ =>
  ⟨State.returnsBits_of_readBits rfl (s.sec_eq_true_iff s.cpu),
    State.returnsBits_of_readBits rfl (s.en_eq_true_iff s.cpu),
    State.returnsBits_of_readBits rfl (s.en_eq_true_iff s.cpu)⟩

/-- Settles O6: both reads show the pending view. -/
theorem readPending : Obligations.ReadPending := by
  rintro s k i (rfl | rfl)
  · exact State.returnsBits_of_readBits rfl (s.pendView_eq_true_iff s.cpu)
  · exact State.returnsBits_of_readBits rfl (s.pendView_eq_true_iff s.cpu)

/-- Settles O7: the read shows the active view. -/
theorem readActive : Obligations.ReadActive := fun s _ =>
  State.returnsBits_of_readBits rfl (s.actView_eq_true_iff s.cpu)

end Sys2Proof.Machine
end

section
/-! Writes of the bit arrays of the Distributor (spec/42 R172 to R180): each is an update of the writer's banked lines
and of the implemented SPIs, line by line; what it does to one line is said once for each. -/

namespace Sys2Proof.Machine

/-- The IDs of word `k` of an array of density `d`. -/
theorem holdsLine_iff (d : Density) (k n : Nat) : holdsLine d k n = true ↔ n / d.fields = k := beq_iff_eq

/-- R170: the IDs a write of word `k` names. -/
theorem writesOne_iff (v : Word) (k n : Nat) : writesOne v k n = true ↔ n / 32 = k ∧ v.getLsbD (n % 32) = true := by
  rw [writesOne, Bool.and_eq_true, beq_iff_eq]

section

variable (s : State) (c : CpuId) {fs : Nat → SgiLine → SgiLine} {fp : Nat → PpiLine → PpiLine}
  {fi : Nat → SpiLine → SpiLine} {sgi : CpuId → Nat → SgiLine → SgiLine → Prop}
  {ppi : CpuId → Nat → PpiLine → PpiLine → Prop} {spi : Nat → SpiLine → SpiLine → Prop}

/-- What an update of the PPIs of `c` and the SPIs does to every line. -/
theorem State.linesBecome_updPpi_updSpi (hsgi : ∀ c2 n l, sgi c2 n l l)
    (hppi : ∀ c2 n l, ppi c2 n l (if c2 = c then fp n l else l))
    (hspi : ∀ n l, spi n l (if n < s.par.maxl then fi n l else l)) :
    s.LinesBecome ((s.updPpi c fp).updSpi fi) sgi ppi spi := by
  refine ⟨fun c2 n _ => ?_, fun c2 n h1 h2 => ?_, fun n h => ?_⟩
  · rw [State.sgiOf_updSpi, State.sgiOf_updPpi]
    exact hsgi ..
  · rw [State.ppiOf_updSpi, State.ppiOf_updPpi s c fp c2 n h1 h2]
    exact hppi ..
  · rw [State.spiOf_updSpi _ _ n h]
    exact hspi ..

/-- What an update of all banked lines of `c` and the SPIs does to every line. -/
theorem State.linesBecome_updSgi_updPpi_updSpi (hsgi : ∀ c2 n l, sgi c2 n l (if c2 = c then fs n l else l))
    (hppi : ∀ c2 n l, ppi c2 n l (if c2 = c then fp n l else l))
    (hspi : ∀ n l, spi n l (if n < s.par.maxl then fi n l else l)) :
    s.LinesBecome (((s.updSgi c fs).updPpi c fp).updSpi fi) sgi ppi spi := by
  refine ⟨fun c2 n h => ?_, fun c2 n h1 h2 => ?_, fun n h => ?_⟩
  · rw [State.sgiOf_updSpi, State.sgiOf_updPpi, State.sgiOf_updSgi s c fs c2 n h]
    exact hsgi ..
  · rw [State.ppiOf_updSpi, State.ppiOf_updPpi _ c fp c2 n h1 h2, State.ppiOf_updSgi]
    exact hppi ..
  · rw [State.spiOf_updSpi _ _ n h]
    exact hspi ..

end

/-- A line that passes `p` first and lies in word `k` of an array takes what is written; every other line stays. -/
theorem ite_holdsLine {α : Type} {p : Prop} [Decidable p] (d : Density) (k n : Nat) (x y : α) :
    (if p then if holdsLine d k n then x else y else y) = if p ∧ n / d.fields = k then x else y := by
  simp only [holdsLine_iff, ite_and]

/-- R170: a line that passes `p` first and whose bit is written 1 takes what is written; every other line stays. -/
theorem ite_writesOne {α : Type} {p : Prop} [Decidable p] (v : Word) (k n : Nat) (x y : α) :
    (if p then if writesOne v k n then x else y else y) =
      if p ∧ n / 32 = k ∧ v.getLsbD (n % 32) = true then x else y := by
  simp only [writesOne_iff, ite_and]

/-- Settles O8: the update of every line of the word. -/
theorem writeSecurity : Obligations.WriteSecurity := by
  intro s k v
  exact ⟨_, rfl, rfl, s.linesBecome_updSgi_updPpi_updSpi s.cpu (fun _ _ _ => ite_holdsLine .d32 ..)
    (fun _ _ _ => ite_holdsLine .d32 ..) fun _ _ => ite_holdsLine .d32 ..⟩

/-- Settles O9: both writes are the one update of the enables, which leaves the SGIs alone. -/
theorem writeEnables : Obligations.WriteEnables := by
  intro s k v b
  have hexec : exec (if b then .wrIcdiser k v else .wrIcdicer k v) s = .next (s.writeEnables k v b) := by
    cases b <;> rfl
  exact ⟨_, hexec, rfl, s.linesBecome_updPpi_updSpi s.cpu (fun _ _ _ => rfl) (fun _ _ _ => ite_writesOne ..)
    fun _ _ => ite_writesOne ..⟩

/-- R178: a 1:N SPI has one latch. -/
theorem SpiLine.latched_oneN {l : SpiLine} (p : Params) (h : l.cfg.getLsbD 0 = true) :
    l.latched p = { l with latch1 := true } := if_pos h

/-- R178: an N:N SPI latches on the implemented CPUs of its target mask. -/
theorem SpiLine.latched_nN {l : SpiLine} (p : Params) (h : ¬ l.cfg.getLsbD 0 = true) :
    l.latched p = { l with latchN := (l.latched p).latchN } ∧
    ∀ c : CpuId, (l.latched p).latchN[c] = (l.latchN[c] || (decide (c.val < p.ncpu) && l.tgt.getLsbD c.val)) := by
  rw [SpiLine.latched, if_neg h]
  exact ⟨rfl, fun c => tabUpdate_cpu _ l.latchN c⟩

/-- R180: an SPI keeps no latch of an implemented CPU. -/
theorem SpiLine.unlatched_latchN (l : SpiLine) (p : Params) (c : CpuId) :
    (l.unlatched p).latchN[c] = (l.latchN[c] && decide (p.ncpu ≤ c.val)) := by
  have hentry : (l.unlatched p).latchN[c] = if c.val < p.ncpu then false else l.latchN[c] := tabUpdate_cpu _ l.latchN c
  rw [hentry]
  split_ifs with hc
  · simp [hc]
  · simp [Nat.not_lt.mp hc]

/-- Settles O10: the PPIs by their one latch, an SPI by its model bit. -/
theorem writeSetPending : Obligations.WriteSetPending := by
  intro s k v
  refine ⟨_, rfl, rfl, s.linesBecome_updPpi_updSpi s.cpu (fun _ _ _ => rfl) (fun _ _ _ => ite_writesOne ..)
    fun n l => ?_⟩
  rw [ite_writesOne]
  split_ifs with hline hone
  · exact l.latched_oneN s.par hone
  · exact l.latched_nN s.par hone
  · rfl

/-- Settles O11: the PPIs by their one latch, an SPI by both of its kinds of latch. -/
theorem writeClearPending : Obligations.WriteClearPending := by
  intro s k v
  refine ⟨_, rfl, rfl, s.linesBecome_updPpi_updSpi s.cpu (fun _ _ _ => rfl) (fun _ _ _ => ite_writesOne ..)
    fun n l => ?_⟩
  rw [ite_writesOne]
  split_ifs with hline
  · exact ⟨rfl, l.unlatched_latchN s.par⟩
  · rfl

end Sys2Proof.Machine
end

section
/-! The packed arrays of the Distributor (spec/43 R200 to R206): what a field of a read word shows, what a field of a
written word stores, and the two checks of a write of ICDICFR. -/

namespace Sys2Proof.Machine

/- The fields of a word. -/

/-- R200: field `j` of a read of a packed array is the entry of ID `d * k + j`. -/
theorem fieldword_extractLsb' (maxl k : Nat) (d : Density) (g : Nat → BitVec d.width) {j : Nat} (hj : j < d.fields) :
    (fieldword maxl k d fun n => (g n).setWidth 32).extractLsb' (j * d.width) d.width =
      if d.fields * k + j < maxl then g (d.fields * k + j) else 0 := by
  apply BitVec.eq_of_getLsbD_eq
  intro i hi
  have hfits : ∀ n b, d.width ≤ b → ((g n).setWidth 32).getLsbD b = false := fun n b hb => by
    rw [BitVec.getLsbD_setWidth, BitVec.getLsbD_of_ge _ _ hb, Bool.and_false]
  have hword : j * d.width + i < 32 :=
    calc j * d.width + i
      _ < (j + 1) * d.width := by rw [Nat.succ_mul]; omega
      _ ≤ d.fields * d.width := Nat.mul_le_mul_right _ hj
      _ = 32 := d.fields_mul_width
  have hfield : (j * d.width + i) / d.width = j := by
    rw [Nat.mul_comm, Nat.mul_add_div d.width_pos, Nat.div_eq_of_lt hi, Nat.add_zero]
  have hbit : (j * d.width + i) % d.width = i := by rw [Nat.mul_comm, Nat.mul_add_mod, Nat.mod_eq_of_lt hi]
  have h32 : i < 32 := by omega
  rw [BitVec.getLsbD_extractLsb', fieldword_getLsbD _ _ _ _ hfits, hfield, hbit, BitVec.getLsbD_setWidth]
  split_ifs with hmax
  · simp [hi, hword, hmax, h32, -BitVec.getLsbD_eq_getElem]
  · simp [hmax]

/-- R136: the field of an ID, as a bit vector of the field's width. -/
theorem setWidth_fieldGet (v : Word) (n : Nat) (d : Density) :
    (fieldGet v n d).setWidth d.width = v.extractLsb' (d.width * (n % d.fields)) d.width := by
  apply BitVec.eq_of_getLsbD_eq
  intro j hj
  rw [BitVec.getLsbD_setWidth, fieldGet_getLsbD, BitVec.getLsbD_extractLsb', bitShift, Nat.mul_comm d.width]
  simp [hj, -BitVec.getLsbD_eq_getElem]

/-- R202: a priority field stores its four high bits. -/
theorem storedPrio_fieldGet (v : Word) (n : Nat) :
    storedPrio (fieldGet v n .d4) = v.extractLsb' (8 * (n % 4)) 8 &&& 0xF0 :=
  congrArg (· &&& prioMask) (setWidth_fieldGet v n .d4)

/-- R206: a configuration field is stored as it is. -/
theorem writtenCfg_eq (v : Word) (n : Nat) : writtenCfg v n = v.extractLsb' (2 * (n % 16)) 2 :=
  setWidth_fieldGet v n .d16

/-- R13: the mask of the implemented CPUs. -/
theorem allCpu_getLsbD (p : Params) (j : Nat) : p.allCpu.getLsbD j = decide (j < p.ncpu) := by
  have hncpu : p.ncpu ≤ 8 := p.cpuNumber.isLt
  rw [Params.allCpu, BitVec.getLsbD_ofNat, Nat.testBit_two_pow_sub_one, Bool.and_eq_right_iff_imp]
  simpa using fun hj => Nat.lt_of_lt_of_le hj hncpu

/-- R204: a target field stores its bits of implemented CPUs. -/
theorem storedTargets_fieldGet_getLsbD (p : Params) (v : Word) (n j : Nat) :
    (storedTargets p (fieldGet v n .d4)).getLsbD j =
      (decide (j < p.ncpu) && (v.extractLsb' (8 * (n % 4)) 8).getLsbD j) := by
  have hfield : (fieldGet v n .d4).setWidth 8 = v.extractLsb' (8 * (n % 4)) 8 := setWidth_fieldGet v n .d4
  rw [storedTargets, hfield, BitVec.getLsbD_and, allCpu_getLsbD, Bool.and_comm]

/- Reads. -/

/-- R200: a read that shows the entries `g` returns them as its fields. -/
theorem State.returnsFields_of_readFields {s : State} {i : Instr} {k : Nat} {d : Density} (g : Nat → BitVec d.width)
    {field : Nat → Nat} (hread : exec i s = s.readFields k d fun n => (g n).setWidth 32)
    (hfield : ∀ n, (g n).toNat = field n) : s.ReturnsFields i k d field := by
  refine ⟨_, hread, fun j hj => ?_⟩
  have hentry := congrArg BitVec.toNat (fieldword_extractLsb' s.par.maxl k d g hj)
  rw [BitVec.extractLsb'_toNat, Nat.shiftRight_eq_div_pow] at hentry
  rw [hentry, apply_ite BitVec.toNat, hfield]
  rfl

/-- R203: the bit of a CPU, as a number. -/
theorem cpuBit_toNat : ∀ c : CpuId, (cpuBit c).toNat = 2 ^ c.val := by decide

/-- Settles O13: each read shows one entry of every line, by the class of the ID. -/
theorem readFields : Obligations.ReadFields := by
  intro s k
  refine ⟨State.returnsFields_of_readFields (d := .d4) (s.prio s.cpu) rfl fun n => ?_,
    State.returnsFields_of_readFields (d := .d4) (s.targetView s.cpu) rfl fun n => ?_,
    State.returnsFields_of_readFields (d := .d16) (s.cfgOf s.cpu) rfl fun n => ?_⟩
  · unfold State.prio
    split_ifs <;> rfl
  · unfold State.targetView
    split_ifs
    · exact cpuBit_toNat s.cpu
    · rfl
  · unfold State.cfgOf
    split_ifs <;> rfl

/- Writes of priorities and targets. -/

/-- What an update of the SPIs alone does to every line. -/
theorem State.linesBecome_updSpi (s : State) {fi : Nat → SpiLine → SpiLine}
    {sgi : CpuId → Nat → SgiLine → SgiLine → Prop} {ppi : CpuId → Nat → PpiLine → PpiLine → Prop}
    {spi : Nat → SpiLine → SpiLine → Prop} (hsgi : ∀ c n l, sgi c n l l) (hppi : ∀ c n l, ppi c n l l)
    (hspi : ∀ n l, spi n l (if n < s.par.maxl then fi n l else l)) : s.LinesBecome (s.updSpi fi) sgi ppi spi := by
  refine ⟨fun c n _ => hsgi .., fun c n _ _ => hppi .., fun n h => ?_⟩
  rw [State.spiOf_updSpi _ _ n h]
  exact hspi ..

/-- Settles O14: the update of every line of the word, each storing the high half of its field. -/
theorem writePriorities : Obligations.WritePriorities := by
  intro s k v
  exact ⟨_, rfl, rfl, s.linesBecome_updSgi_updPpi_updSpi s.cpu
    (fun _ n _ => storedPrio_fieldGet v n ▸ ite_holdsLine .d4 ..)
    (fun _ n _ => storedPrio_fieldGet v n ▸ ite_holdsLine .d4 ..)
    fun n _ => storedPrio_fieldGet v n ▸ ite_holdsLine .d4 ..⟩

/-- Settles O15: the update of the SPIs of the word, bit by bit of the stored mask. -/
theorem writeTargets : Obligations.WriteTargets := by
  intro s k v
  refine ⟨_, rfl, rfl, s.linesBecome_updSpi (fun _ _ _ => rfl) (fun _ _ _ => rfl) fun n l => ?_⟩
  rw [ite_holdsLine, Density.fields]
  split_ifs with hline
  · exact ⟨rfl, storedTargets_fieldGet_getLsbD s.par v n⟩
  · rfl

/- Writes of the configuration. -/

/-- R206: the IDs whose configuration word `k` of ICDICFR writes. -/
theorem mem_cfgIds (maxl k n : Nat) : n ∈ cfgIds maxl k ↔ 16 ≤ n ∧ n < maxl ∧ n / 16 = k := by
  simp only [cfgIds, List.mem_filter, List.mem_map, List.mem_range, decide_eq_true_eq]
  constructor
  · rintro ⟨⟨j, hj, rfl⟩, h16, hmax⟩
    exact ⟨h16, hmax, by omega⟩
  · rintro ⟨h16, hmax, hword⟩
    exact ⟨⟨n % 16, by omega, by omega⟩, h16, hmax⟩

/-- R206: an SPI is busy exactly when it is not idle. -/
theorem State.spiBusy_eq_true_iff (s : State) (n : Nat) : s.spiBusy n = true ↔ ¬ s.SpiIdle n := by
  refine ⟨fun hbusy ⟨hlatch, hact, hcpus⟩ => ?_, fun h => ?_⟩
  · simp only [State.spiBusy, hlatch, hact, Option.isSome_none, Bool.or_false, Bool.false_or,
      any_cpus_eq_true_iff, Bool.or_eq_true] at hbusy
    obtain ⟨c, hc, hc2⟩ := hbusy
    obtain ⟨hlatchN, hactN⟩ := hcpus c hc
    simp [hlatchN, hactN, -Fin.getElem_fin] at hc2
  · by_contra hbusy
    exact h (s.spiIdle_of_not_busy (Bool.eq_false_of_not_eq_true hbusy))

/-- R206: what the check for F7 looks for. -/
theorem State.changesEnabled_eq_true_iff (s : State) (k : Nat) (v : Word) : s.changesEnabled k v = true ↔
    ∃ n, (16 ≤ n ∧ n < s.par.maxl ∧ n / 16 = k) ∧ v.extractLsb' (2 * (n % 16)) 2 ≠ s.cfgOf s.cpu n ∧
      s.en s.cpu n = true := by
  simp only [State.changesEnabled, List.any_eq_true, mem_cfgIds, writtenCfg_eq, Bool.and_eq_true, bne_iff_ne]

/-- R206: a write that changes no field but those of disabled IDs passes the check for F7. -/
theorem State.not_changesEnabled_of_disabled {s : State} {k : Nat} {v : Word}
    (h : ∀ n, 16 ≤ n → n < s.par.maxl → n / 16 = k → v.extractLsb' (2 * (n % 16)) 2 ≠ s.cfgOf s.cpu n →
      s.en s.cpu n = false) : ¬ s.changesEnabled k v = true := by
  rw [State.changesEnabled_eq_true_iff]
  rintro ⟨n, ⟨h16, hmax, hword⟩, hchange, hen⟩
  simp [h n h16 hmax hword hchange] at hen

/-- R206: the model bit that a word gives an ID. -/
theorem writtenCfg_getLsbD_zero (v : Word) (n : Nat) : (writtenCfg v n).getLsbD 0 = v.getLsbD (2 * (n % 16)) := by
  rw [writtenCfg_eq, BitVec.getLsbD_extractLsb']
  rfl

/-- R206: what the check for F8 looks for. -/
theorem State.changesBusyModel_eq_true_iff (s : State) (k : Nat) (v : Word) : s.changesBusyModel k v = true ↔
    ∃ n, (16 ≤ n ∧ n < s.par.maxl ∧ n / 16 = k) ∧
      (32 ≤ n ∧ v.getLsbD (2 * (n % 16)) ≠ (s.cfgOf s.cpu n).getLsbD 0) ∧ ¬ s.SpiIdle n := by
  simp only [State.changesBusyModel, List.any_eq_true, mem_cfgIds, State.oneN, writtenCfg_getLsbD_zero,
    Bool.and_eq_true, bne_iff_ne, decide_eq_true_eq, State.spiBusy_eq_true_iff]

/-- Settles O16: neither check finds what it looks for, and the update writes every field. -/
theorem writeConfiguration : Obligations.WriteConfiguration := by
  intro s k v hidle
  have hen : ¬ s.changesEnabled k v = true :=
    State.not_changesEnabled_of_disabled fun n h16 hmax hword hchange => (hidle n h16 hmax hword hchange).1
  have hbusy : ¬ s.changesBusyModel k v = true := by
    rw [State.changesBusyModel_eq_true_iff]
    rintro ⟨n, ⟨h16, hmax, hword⟩, ⟨h32, hmodel⟩, hbusy⟩
    have hchange : v.extractLsb' (2 * (n % 16)) 2 ≠ s.cfgOf s.cpu n := fun heq =>
      hmodel (by rw [← heq, ← writtenCfg_eq, writtenCfg_getLsbD_zero])
    exact hbusy ((hidle n h16 hmax hword hchange).2 h32 hmodel)
  have hexec : exec (.wrIcdicfr k v) s = .next (s.writeCfg k v) := (if_neg hen).trans (if_neg hbusy)
  exact ⟨_, hexec, rfl, s.linesBecome_updPpi_updSpi s.cpu (fun _ _ _ => rfl)
    (fun _ n _ => writtenCfg_eq v n ▸ ite_holdsLine .d16 ..) fun n _ => writtenCfg_eq v n ▸ ite_holdsLine .d16 ..⟩

/-- Settles O17: the check for F7 finds the enabled ID; where it finds none, the check for F8 finds the busy SPI. -/
theorem configurationFaults : Obligations.ConfigurationFaults := by
  intro s k v n h16 hmax hword
  refine ⟨fun hchange hen => ?_, fun hdisabled h32 hmodel hbusy => ?_⟩
  · exact if_pos ((s.changesEnabled_eq_true_iff k v).mpr ⟨n, ⟨h16, hmax, hword⟩, hchange, hen⟩)
  · have hfound := (s.changesBusyModel_eq_true_iff k v).mpr ⟨n, ⟨h16, hmax, hword⟩, ⟨h32, hmodel⟩, hbusy⟩
    exact (if_neg (State.not_changesEnabled_of_disabled hdisabled)).trans (if_pos hfound)

end Sys2Proof.Machine
end

section
/-! The send of software-generated interrupts (spec/44 R220, R221): the CPUs a target filter names, and what a send does
to the pending bits of one SGI. -/

namespace Sys2Proof.Machine

/-- R13: the mask of one CPU holds that CPU alone. -/
theorem cpuBit_getLsbD : ∀ c t : CpuId, (cpuBit c).getLsbD t.val = decide (t = c) := by decide

/-- R220: the target set is missing for the reserved filter alone. -/
theorem sgiTargets_of_reserved (p : Params) (c : CpuId) {v : Word} (h : sgiFilter v = 3) : sgiTargets p c v = none := by
  simp [sgiTargets, h]

/-- R220: the implemented CPUs of the target set: those of the list, every CPU but the sender, or the sender. -/
theorem sgiTargets_of_not_reserved (p : Params) (c : CpuId) {v : Word} (h : sgiFilter v ≠ 3) :
    ∃ targets, sgiTargets p c v = some targets ∧ ∀ t : CpuId, t.val < p.ncpu →
      (targets.getLsbD t.val = true ↔
        if sgiFilter v = 0 then v.getLsbD (16 + t.val) = true else if sgiFilter v = 1 then t ≠ c else t = c) := by
  have hrest : ∀ filter : BitVec 2, filter ≠ 3 → filter ≠ 0 → filter ≠ 1 → filter = 2 := by decide
  rw [sgiTargets]
  split_ifs with hlist hothers hself
  · refine ⟨_, rfl, fun t ht => ?_⟩
    have hbit : (sgiList v).getLsbD t.val = v.getLsbD (16 + t.val) := by
      rw [sgiList, BitVec.getLsbD_extractLsb', decide_eq_true t.isLt, Bool.true_and]
    rw [BitVec.getLsbD_and, allCpu_getLsbD, decide_eq_true ht, Bool.and_true, hbit]
  · refine ⟨_, rfl, fun t ht => ?_⟩
    rw [BitVec.getLsbD_and, allCpu_getLsbD, BitVec.getLsbD_not, cpuBit_getLsbD]
    simp [ht]
  · refine ⟨_, rfl, fun t _ => ?_⟩
    rw [cpuBit_getLsbD, decide_eq_true_iff]
  · exact absurd (hrest _ h hlist hothers) hself

/-- R220, R221: the SGIs a send reaches. -/
theorem sgiReaches_iff (p : Params) (v : Word) (targets : Byte) (t : CpuId) (n : Nat) (l : SgiLine) :
    sgiReaches p v targets t n l = true ↔
      n = sgiId v ∧ t.val < p.ncpu ∧ targets.getLsbD t.val = true ∧ l.sec = sgiNsatt v := by
  simp only [sgiReaches, Bool.and_eq_true, beq_iff_eq, decide_eq_true_eq, and_assoc]

/-- R220: one SGI after a send: its pending bit of the sender, and nothing else, is set where the send reaches it. -/
theorem State.sgiOf_sendSgi (s : State) (v : Word) (targets : Byte) (c : CpuId) {n : Nat} (hn : n < 16) :
    (s.sendSgi v targets).sgiOf c n =
        { s.sgiOf c n with pend := ((s.sendSgi v targets).sgiOf c n).pend } ∧
      ∀ src : CpuId, ((s.sendSgi v targets).sgiOf c n).pend[src] = true ↔
        ((s.sgiOf c n).pend[src] = true ∨
          (src = s.cpu ∧ sgiReaches s.par v targets c n (s.sgiOf c n) = true)) := by
  rw [State.sendSgi, State.sgiOf_updSgis _ _ c n hn]
  split_ifs with hreach
  · refine ⟨rfl, fun src => ?_⟩
    rw [Fin.getElem_fin, tabSet_cpu, Fin.getElem_fin]
    by_cases hsrc : src = s.cpu <;> simp [hsrc, hreach]
  · exact ⟨rfl, fun src => by simp [hreach]⟩

/-- Settles O18: the target set by its filter, and the SGI it reaches at each CPU. -/
theorem sendSgi : Obligations.SendSgi := by
  intro s v
  refine ⟨fun hfilter => ?_, fun hfilter => ?_⟩
  · show execWrIcdsgir v s = _
    rw [execWrIcdsgir, sgiTargets_of_reserved s.par s.cpu hfilter]
  · obtain ⟨targets, hsome, htargets⟩ := sgiTargets_of_not_reserved s.par s.cpu hfilter
    have hexec : exec (.wrIcdsgir v) s = .next (s.sendSgi v targets) := by
      show execWrIcdsgir v s = _
      rw [execWrIcdsgir, hsome]
    refine ⟨_, hexec, rfl, fun c n hn => ?_, fun c n _ _ => State.ppiOf_updSgis .., fun n _ => State.spiOf_updSgis ..⟩
    obtain ⟨hframe, hpend⟩ := s.sgiOf_sendSgi v targets c hn
    refine ⟨hframe, fun src => (hpend src).trans (or_congr_right (and_congr_right fun _ => ?_))⟩
    rw [sgiReaches_iff]
    exact and_congr_right fun _ => and_congr_right fun hc => and_comm.trans (and_congr_right fun _ => htargets c hc)

end Sys2Proof.Machine
end

section
/-! The registers of one CPU interface (spec/45 R231 to R239, R243 to R245): the words read, what a write stores, and the
groupings of the binary points. -/

namespace Sys2Proof.Machine

/-- R231: each control bit has a bit of its own, and no other bit is set. -/
theorem Icr.word_getLsbD (i : Icr) (j : Nat) :
    i.word.getLsbD j = (decide (j = 0) && i.enableS || decide (j = 1) && i.enableNS || decide (j = 2) && i.ackCtl ||
      decide (j = 3) && i.fiqEn || decide (j = 4) && i.sbpr) := by
  have hbit (b : Bool) (k : Nat) (hk : k < 32) := flag_getLsbD b hk j
  simp only [Icr.word, BitVec.getLsbD_or]
  exact congrArg₂ (· || ·) (congrArg₂ (· || ·) (congrArg₂ (· || ·) (congrArg₂ (· || ·)
    (hbit i.enableS 0 (by decide)) (hbit i.enableNS 1 (by decide))) (hbit i.ackCtl 2 (by decide)))
    (hbit i.fiqEn 3 (by decide))) (hbit i.sbpr 4 (by decide))

theorem State.top_of_nil {s : State} {c : CpuId} (h : (s.ifOf c).stk = []) : s.top c = none := congrArg List.head? h

theorem State.top_of_cons {s : State} {c : CpuId} {e : Entry} {rest : List Entry} (h : (s.ifOf c).stk = e :: rest) :
    s.top c = some e := congrArg List.head? h

/-- R243: an idle CPU runs at 0xFF. -/
theorem State.runningPrio_of_nil {s : State} {c : CpuId} (h : (s.ifOf c).stk = []) : s.runningPrio c = 0xFF := by
  rw [State.runningPrio, State.top_of_nil h]

/-- R243: the running priority is the one the top of the stack was claimed at. -/
theorem State.runningPrio_of_cons {s : State} {c : CpuId} {e : Entry} {rest : List Entry}
    (h : (s.ifOf c).stk = e :: rest) : s.runningPrio c = e.prio := by
  rw [State.runningPrio, State.top_of_cons h]

/-- Settles O19: each read shows one field, the control bits bit by bit and the running priority by the stack. -/
theorem readInterface : Obligations.ReadInterface := by
  intro s
  have hbits := (s.ifOf s.cpu).icr.word_getLsbD
  have hrpr : exec .rdIccrpr s = .next (s.ret ((s.runningPrio s.cpu).setWidth 32)) := rfl
  refine ⟨⟨_, rfl, ?_, ?_, ?_, ?_, ?_, fun j hj => ?_⟩, rfl, rfl, rfl, fun hidle => ?_, fun e rest hstk => ?_⟩
  · simpa using hbits 0
  · simpa using hbits 1
  · simpa using hbits 2
  · simpa using hbits 3
  · simpa using hbits 4
  · have hne (k : Nat) (hk : k < 5) : j ≠ k := by omega
    rw [hbits j]
    simp [hne]
  · rw [hrpr, State.runningPrio_of_nil hidle]
    rfl
  · rw [hrpr, State.runningPrio_of_cons hstk]
    rfl

/-- R82: an update of one interface changes nothing else. -/
theorem State.sameButInterface_updIf (s : State) (c : CpuId) (f : CpuIf → CpuIf) :
    s.SameButInterface (s.updIf c f) c :=
  ⟨rfl, fun c2 hc => by rw [State.ifOf_updIf, if_neg hc]⟩

theorem State.ifOf_updIf_self (s : State) (c : CpuId) (f : CpuIf → CpuIf) : (s.updIf c f).ifOf c = f (s.ifOf c) := by
  rw [State.ifOf_updIf, if_pos rfl]

/-- R235: a mask is stored without its low half. -/
theorem storedPrio_eq (v : Word) : storedPrio v = v.extractLsb' 0 8 &&& 0xF0 :=
  congrArg (· &&& prioMask) (BitVec.setWidth_eq_extractLsb' (by decide))

/-- Settles O20: each write is an update of one field of the writer's interface. -/
theorem writeInterface : Obligations.WriteInterface := by
  intro s v
  refine ⟨⟨_, rfl, s.sameButInterface_updIf _ _, s.ifOf_updIf_self _ _⟩,
    ⟨_, rfl, s.sameButInterface_updIf _ _, ?_⟩⟩
  rw [s.ifOf_updIf_self, storedPrio_eq]

/-- R238, R245: what a write of field `b` leaves stored, in a register that holds `stored` and was last written with
`last`: `b` or the minimum; by its own draw unless it repeats the last write, which keeps what that could leave. -/
theorem storedBinaryPoint_standingDraw (least stored : BitVec 3) (last : Option (BitVec 3)) (raise : Bool)
    (b : BitVec 3) :
    let new := storedBinaryPoint least (standingDraw least stored last raise b) b
    (new = b ∨ (b.toNat < least.toNat ∧ new = least)) ∧
    (last ≠ some b → new = if b.toNat < least.toNat ∧ raise = true then least else b) ∧
    (last = some b → stored = b ∨ (b.toNat < least.toNat ∧ stored = least) → new = stored) := by
  intro new
  refine ⟨?_, fun hfresh => ?_, fun hagain hstored => ?_⟩
  · by_cases hraised : b < least ∧ standingDraw least stored last raise b = true
    · exact .inr ⟨hraised.1, if_pos hraised⟩
    · exact .inl (if_neg hraised)
  · show storedBinaryPoint _ _ _ = _
    rw [standingDraw, if_neg hfresh]
    rfl
  · show storedBinaryPoint _ _ _ = _
    rw [standingDraw, if_pos hagain, storedBinaryPoint]
    rcases hstored with rfl | ⟨hlow, rfl⟩
    · split_ifs with hraised
      · exact (of_decide_eq_true hraised.2).symm
      · rfl
    · exact if_pos ⟨hlow, decide_eq_true rfl⟩

theorem binaryPointField_eq (v : Word) : binaryPointField v = v.extractLsb' 0 3 :=
  BitVec.setWidth_eq_extractLsb' (by decide)

/-- Settles O21: each write is an update of the writer's interface, which stores its field under the standing draw. -/
theorem writeBinaryPoints : Obligations.WriteBinaryPoints := by
  intro s v b
  refine ⟨⟨rfl, ?_⟩, ⟨rfl, ?_⟩⟩
  · intro raise t
    have hif : t.ifOf s.cpu = (s.ifOf s.cpu).writeBpr raise b := by
      rw [s.writeBpr_ifOf, binaryPointField_eq]
    rw [hif]
    exact ⟨s.sameButInterface_updIf _ _, rfl, storedBinaryPoint_standingDraw bprMin _ _ raise b⟩
  · intro raise t
    have hif : t.ifOf s.cpu = (s.ifOf s.cpu).writeAbpr raise b := by
      rw [s.writeAbpr_ifOf, binaryPointField_eq]
    rw [hif]
    exact ⟨s.sameButInterface_updIf _ _, rfl, storedBinaryPoint_standingDraw abprMin _ _ raise b⟩

/-- R38: of a priority that holds implemented bits only, a mask selects implemented bits only. -/
theorem and_prioMask_and {p : Byte} (h : p &&& 0x0F = 0) (m : Byte) : p &&& m = p &&& (prioMask &&& m) := by
  have hhigh : p &&& prioMask = p := by
    revert p
    decide
  rw [← BitVec.and_assoc, hhigh]

/-- R236, R239: the implemented bits that ICCBPR selects. -/
theorem groupingMask_eq : ∀ b : BitVec 3, prioMask &&& (0xFF#8 <<< (b.toNat + 1)) = groupingMask b := by decide

/-- R236, R239: the implemented bits that ICCABPR selects. -/
theorem aliasedGroupingMask_eq : ∀ b : BitVec 3, prioMask &&& (0xFF#8 <<< b.toNat) = aliasedGroupingMask b := by decide

/-- Settles O22: the group's mask, cut to the implemented bits. -/
theorem binaryPointGroupings : Obligations.BinaryPointGroupings := by
  intro s c p hlow
  have hbpr (g : Group) (h : g = .g0 ∨ (s.ifOf c).icr.sbpr = true) :
      s.gp c g p = p &&& groupingMask (s.ifOf c).bpr := by
    rw [State.gp, State.gmask, if_pos h, and_prioMask_and hlow, groupingMask_eq]
  refine ⟨hbpr _ (.inl rfl), fun hsbpr => hbpr _ (.inr hsbpr), fun hsbpr => ?_⟩
  rw [State.gp, State.gmask, if_neg (by simp [hsbpr]), and_prioMask_and hlow, aliasedGroupingMask_eq]

end Sys2Proof.Machine
end

section
/-! The acknowledge, the highest-pending read and the end-of-interrupt (spec/45 R240, R242, R246, R248, spec/60 R307,
R308): what a claim and a release leave, and that the value of a claim names it. -/

namespace Sys2Proof.Machine

/- The value that names an interrupt (R240). -/

/-- R240: the two fields of the value do not overlap. -/
theorem claimWord_toNat {id : Nat} (h : id < 1024) (src : CpuId) : (claimWord id src).toNat = id + 1024 * src.val := by
  have hid : (BitVec.ofNat 32 id).toNat = id := by
    rw [BitVec.toNat_ofNat, Nat.mod_eq_of_lt (by omega)]
  exact or_shiftLeft_toNat (k := 10) hid h (by omega)

theorem claimWord_eq {id : Nat} (h : id < 1024) (src : CpuId) :
    claimWord id src = BitVec.ofNat 32 (id + 1024 * src.val) := by
  apply BitVec.eq_of_toNat_eq
  rw [claimWord_toNat h, BitVec.toNat_ofNat, Nat.mod_eq_of_lt (by omega)]

theorem claimId_claimWord {id : Nat} (h : id < 1024) (src : CpuId) : claimId (claimWord id src) = id := by
  rw [claimId, BitVec.extractLsb'_toNat, claimWord_toNat h, Nat.shiftRight_zero]
  omega

theorem claimSrc_claimWord {id : Nat} (h : id < 1024) (src : CpuId) : claimSrc (claimWord id src) = src.val := by
  rw [claimSrc, BitVec.extractLsb'_toNat, claimWord_toNat h, Nat.shiftRight_eq_div_pow]
  omega

/-- R8, R311: the ID of a candidate fits the ID field. -/
theorem State.id_lt_of_mem_cand {s : State} {c : CpuId} {e : Entry} (h : e ∈ s.cand c) : e.id < 1024 := by
  obtain ⟨hid, -⟩ := (s.mem_cand c e).mp h
  have hmaxl := maxl_bounds s.par
  omega

/-- R302: a candidate that is no SGI has source 0. -/
theorem State.src_of_mem_cand {s : State} {c : CpuId} {e : Entry} (h : e ∈ s.cand c) (hid : 16 ≤ e.id) : e.src = 0 := by
  obtain ⟨-, hsource, -⟩ := (s.mem_cand c e).mp h
  simpa [State.sourcesOf, Nat.not_lt.mpr hid] using hsource

/- What a claim and a release leave (R307, R308). -/

theorem State.sameButLines_claimLine (s : State) (c : CpuId) (e : Entry) : s.SameButLines (s.claimLine c e) := by
  unfold State.claimLine
  split_ifs <;> rfl

theorem State.sameButLines_releaseLine (s : State) (c : CpuId) (e : Entry) : s.SameButLines (s.releaseLine c e) := by
  unfold State.releaseLine
  split_ifs <;> rfl

/-- R307: what a claim makes of an SPI, by its model bit. -/
theorem SpiLine.claimed_cases (l : SpiLine) (c : CpuId) :
    if l.cfg.getLsbD 0 then l.claimed c = { l with latch1 := false, act1 := some c }
    else
      l.claimed c = { l with latchN := (l.claimed c).latchN, actN := (l.claimed c).actN } ∧
      ∀ c2 : CpuId, (l.claimed c).latchN[c2] = (l.latchN[c2] && decide (c2 ≠ c)) ∧
        (l.claimed c).actN[c2] = (l.actN[c2] || decide (c2 = c)) := by
  unfold SpiLine.claimed
  split_ifs with hone
  · rfl
  · refine ⟨rfl, fun c2 => ?_⟩
    simp only [Fin.getElem_fin, tabSet_cpu]
    by_cases hc : c2 = c <;> simp [hc]

/-- R307: a claim, and any value returned after it. -/
theorem State.claimed_claim_ret (s : State) (c : CpuId) (e : Entry) (w : Word) :
    s.Claimed ((s.claim c e).ret w) c e := by
  obtain ⟨hsgi, hppi, hspi⟩ := s.claimLine_lines c e
  refine ⟨?_, fun c2 => ?_, fun c2 n hn => ?_, fun c2 n h1 h2 => hppi c2 n h1 h2, fun n hn => ?_⟩
  · exact congrArg (fun u : State => { u with cpuIf := (s.claim c e).cpuIf, rdata := some w })
      (s.sameButLines_claimLine c e)
  · show ((s.claimLine c e).updIf c _).ifOf c2 = _
    rw [State.ifOf_updIf, State.claimLine_ifOf]
  · have hnew : ((s.claim c e).ret w).sgiOf c2 n = _ := hsgi c2 n hn
    rw [hnew]
    beta_reduce
    split_ifs with hline
    · refine ⟨rfl, fun src => ?_⟩
      simp only [SgiLine.claimed, Fin.getElem_fin, tabSet_cpu]
      by_cases hsrc : src = e.src <;> simp [hsrc]
    · rfl
  · have hnew : ((s.claim c e).ret w).spiOf n = _ := hspi n hn
    rw [hnew]
    beta_reduce
    by_cases hline : n < s.par.maxl ∧ n = e.id
    · rw [if_pos hline, if_pos hline]
      exact (s.spiOf n).claimed_cases c
    · rw [if_neg hline, if_neg hline]

/-- R308: a release of the entry that is popped. -/
theorem State.released_release (s : State) (c : CpuId) (e : Entry) : s.Released (s.release c e) c e := by
  obtain ⟨hsgi, hppi, hspi⟩ := s.releaseLine_lines c e
  refine ⟨?_, fun c2 => ?_, hsgi, hppi, fun n hn => ?_⟩
  · exact congrArg (fun u : State => { u with cpuIf := (s.release c e).cpuIf }) (s.sameButLines_releaseLine c e)
  · rw [State.release, State.ifOf_updIf, State.releaseLine_ifOf]
  · have hnew : (s.release c e).spiOf n = _ := hspi n hn
    rw [hnew]
    beta_reduce
    by_cases hline : n < s.par.maxl ∧ n = e.id
    · rw [if_pos hline, if_pos hline]
      refine ⟨rfl, fun c2 => ?_⟩
      simp only [SpiLine.released, Fin.getElem_fin, tabSet_cpu]
      by_cases hc : c2 = c <;> simp [hc]
    · rw [if_neg hline, if_neg hline]

/- The acknowledge and the highest-pending read, by what the encoder picks (R240, R246). -/

/-- R314: with a candidate the encoder picks one of the least priority value. -/
theorem State.exists_hppi {s : State} {c : CpuId} (h : s.cand c ≠ []) (tie : Nat) :
    ∃ e, s.hppi c tie = some e ∧ e ∈ s.cand c ∧ ∀ x ∈ s.cand c, e.prio.toNat ≤ x.prio.toNat := by
  have hsome : s.hppi c tie ≠ none := fun hnone => h ((s.hppi_eq_none c tie).mp hnone)
  obtain ⟨e, he⟩ := Option.ne_none_iff_exists'.mp hsome
  exact ⟨e, he, s.hppi_mem c tie e he⟩

/-- R240: with no candidate the acknowledge returns the spurious ID. -/
theorem State.acknowledge_of_no_cand {s : State} (h : s.cand s.cpu = []) (tie : Nat) :
    s.acknowledge false tie = s.ret spuriousId := by
  simp [State.acknowledge, (s.hppi_eq_none s.cpu tie).mpr h]

/-- R240: a timely acknowledge of what the encoder picks. -/
theorem State.acknowledge_of_hppi {s : State} {tie : Nat} {e : Entry} (h : s.hppi s.cpu tie = some e) :
    s.acknowledge false tie =
      if s.signalOk s.cpu e = false then s.ret spuriousId
      else if s.grp s.cpu e.id = .g1 ∧ (s.ifOf s.cpu).icr.ackCtl = false then s.ret groupOneId
      else (s.claim s.cpu e).ret (claimWord e.id e.src) := by
  simp [State.acknowledge, h]

/-- R246: with no candidate the highest-pending read returns the spurious ID. -/
theorem State.highestPending_of_no_cand {s : State} (h : s.cand s.cpu = []) (tie : Nat) :
    s.highestPending false tie = spuriousId := by
  simp [State.highestPending, (s.hppi_eq_none s.cpu tie).mpr h]

/-- R246: a timely highest-pending read of what the encoder picks. -/
theorem State.highestPending_of_hppi {s : State} {tie : Nat} {e : Entry} (h : s.hppi s.cpu tie = some e) :
    s.highestPending false tie =
      if s.grp s.cpu e.id = .g1 ∧ (s.ifOf s.cpu).icr.ackCtl = false then groupOneId else claimWord e.id e.src := by
  simp [State.highestPending, h]

/-- Settles O24, by what the encoder picks. -/
theorem acknowledgeCases : Obligations.AcknowledgeCases := by
  intro s tie
  refine ⟨rfl, rfl, fun hnone => s.acknowledge_of_no_cand hnone tie, fun hcand => ?_⟩
  obtain ⟨e, hpick, hmem, hleast⟩ := State.exists_hppi hcand tie
  have hack := s.acknowledge_of_hppi hpick
  refine ⟨e, hmem, hleast, fun hmasked => ?_, fun hsignal => ?_⟩
  · rw [hack, if_pos hmasked]
    rfl
  · rw [if_neg (by simp [hsignal])] at hack
    rw [hack]
    split_ifs with hgroup
    · rfl
    · exact ⟨congrArg some (claimWord_eq (State.id_lt_of_mem_cand hmem) e.src), s.claimed_claim_ret s.cpu e _⟩

/-- Settles O30, by what the encoder picks. -/
theorem highestPendingOutcome : Obligations.HighestPendingOutcome := by
  intro s
  refine ⟨_, rfl, ?_⟩
  cases hlate : s.late with
  | true => exact .inl ⟨rfl, .inl rfl⟩
  | false =>
    by_cases hcand : s.cand s.cpu = []
    · exact .inl ⟨s.highestPending_of_no_cand hcand _, .inr hcand⟩
    · obtain ⟨e, hpick, hmem, hleast⟩ := State.exists_hppi hcand (Config.drawTie s.draws)
      refine .inr ⟨rfl, e, hmem, hleast, ?_⟩
      rw [s.highestPending_of_hppi hpick, claimWord_eq (State.id_lt_of_mem_cand hmem)]
      rfl

/- The end-of-interrupt (R242). -/

/-- R242, R321: of the top of the stack, an end-of-interrupt is told by both of its fields. -/
theorem execWrIcceoir_of_top {s : State} {c : CpuId} {e : Entry} (v : Word) (hcpu : s.cpu = c)
    (htop : s.top c = some e) :
    execWrIcceoir v s =
      if claimId v = e.id ∧ claimSrc v = (if e.id < 16 then e.src.val else 0) then .next (s.release c e)
      else .fault .eoiMismatch := by
  subst hcpu
  rw [execWrIcceoir, htop]
  by_cases hid : claimId v = e.id
  · by_cases hsgi : e.id < 16
    · by_cases hsrc : claimSrc v = e.src.val <;> simp [hid, hsgi, hsrc, Nat.not_le.mpr hsgi]
    · by_cases hsrc : claimSrc v = 0 <;> simp [hid, hsgi, hsrc, Nat.not_lt.mp hsgi]
  · simp [hid]

/-- R248: a release of what was just claimed leaves every interface as it was. -/
theorem State.ifOf_release_claim (s : State) (c : CpuId) (e : Entry) (w : Word) (c2 : CpuId) :
    (((s.claim c e).ret w).release c e).ifOf c2 = s.ifOf c2 := by
  have hret : ((s.claim c e).ret w).ifOf c2 = (s.claim c e).ifOf c2 := rfl
  rw [State.release, State.ifOf_updIf, State.releaseLine_ifOf, hret, State.claim, State.ifOf_updIf,
    State.claimLine_ifOf]
  split_ifs <;> rfl

/-- R240, R248: the value a claim of a candidate returns ends it. -/
theorem exec_wrIcceoir_claimWord {s : State} {e : Entry} (h : e ∈ s.cand s.cpu) :
    exec (.wrIcceoir (claimWord e.id e.src)) ((s.claim s.cpu e).ret (claimWord e.id e.src)) =
      .next (((s.claim s.cpu e).ret (claimWord e.id e.src)).release s.cpu e) := by
  have hid := State.id_lt_of_mem_cand h
  have hcpu : ((s.claim s.cpu e).ret (claimWord e.id e.src)).cpu = s.cpu := by
    simpa [State.claim] using congrArg State.cpu (s.sameButLines_claimLine s.cpu e)
  have htop : ((s.claim s.cpu e).ret (claimWord e.id e.src)).top s.cpu = some e :=
    State.top_of_cons ((s.claim_stk s.cpu e s.cpu).trans (if_pos rfl))
  have hsrc : e.src.val = if e.id < 16 then e.src.val else 0 := by
    split_ifs with hsgi
    · rfl
    · rw [State.src_of_mem_cand h (Nat.not_lt.mp hsgi)]
      rfl
  exact (execWrIcceoir_of_top (claimWord e.id e.src) hcpu htop).trans
    (if_pos ⟨claimId_claimWord hid e.src, (claimSrc_claimWord hid e.src).trans hsrc⟩)

/-- Settles O29: a value other than the two special ones comes from a claim, which it ends. -/
theorem claimIsEndedByItsOwnValue : Obligations.ClaimIsEndedByItsOwnValue := by
  intro s late tie r hr hspurious hgroupOne
  have hnone {w : Word} (hw : s.acknowledge late tie = s.ret w) : r = w :=
    (Option.some.inj ((congrArg State.rdata hw).symm.trans hr)).symm
  cases late with
  | true => exact absurd (hnone rfl) hspurious
  | false =>
    by_cases hcand : s.cand s.cpu = []
    · exact absurd (hnone (s.acknowledge_of_no_cand hcand tie)) hspurious
    obtain ⟨e, hpick, hmem, -⟩ := State.exists_hppi hcand tie
    have hack := s.acknowledge_of_hppi hpick
    split_ifs at hack with hmasked hgroup
    · exact absurd (hnone hack) hspurious
    · exact absurd (hnone hack) hgroupOne
    · rw [hack] at hr ⊢
      cases hr
      have hif := s.ifOf_release_claim s.cpu e (claimWord e.id e.src)
      refine ⟨_, exec_wrIcceoir_claimWord hmem, by rw [hif], ?_, fun c2 _ => hif c2⟩
      rw [State.runningPrio, State.top, hif]
      rfl

end Sys2Proof.Machine

namespace Sys2Proof

open Machine

/-- Settles O28: the release of the top where both fields name it, and the fault otherwise. -/
theorem endOfInterrupt : Obligations.EndOfInterrupt := by
  intro s v
  refine ⟨fun e rest hstk hid hsrc => ⟨s.release s.cpu e, ?_, s.released_release s.cpu e⟩, fun hother => ?_⟩
  · exact (execWrIcceoir_of_top v rfl (State.top_of_cons hstk)).trans (if_pos ⟨hid, hsrc⟩)
  · cases hstk : (s.ifOf s.cpu).stk with
    | nil =>
      show execWrIcceoir v s = _
      rw [execWrIcceoir, State.top_of_nil hstk]
    | cons e rest => exact (execWrIcceoir_of_top v rfl (State.top_of_cons hstk)).trans (if_neg (hother e rest hstk))

end Sys2Proof
end

section
/-! The fairness of the forwarding draw (spec/45 R241, spec/70 R366). Along an execution a run of late answers changes at
the reads it counts alone; a run whose reads are all ready and late lengthens at each, below the length drawn when it
began, so such reads come to an end. -/

namespace Sys2Proof.Machine

/-- The two accesses that draw `late` (R240, R246). -/
def DrawsLate (i : Instr) : Prop := i = .rdIcciar ∨ i = .rdIcchpir

/-- The runs that the draws of read `i` belong to, those of the acknowledge or those of the highest-pending read. -/
def State.lateRuns (s : State) (i : Instr) : Vector LateRun 8 := if i = .rdIcciar then s.ackRun else s.peekRun

/-- Read `i` by the issuer finds the block ready to answer it in time (R241). -/
def State.finds (s : State) (i : Instr) : Bool :=
  if i = .rdIcciar then s.claimable s.cpu (Config.drawTie s.draws) else s.offered s.cpu (Config.drawTie s.draws)

theorem State.lateRuns_congr {s t : State} (hack : t.ackRun = s.ackRun) (hpeek : t.peekRun = s.peekRun) (i : Instr) :
    t.lateRuns i = s.lateRuns i := by
  rw [State.lateRuns, State.lateRuns, hack, hpeek]

/-- R240, R246: the draw of a read, and its issuer's run after it. -/
theorem State.forward_same (s : State) {i : Instr} (hi : DrawsLate i) :
    (s.forward i).late = (s.lateRuns i)[s.cpu].late s.draws ∧
    ((s.forward i).lateRuns i)[s.cpu] = (s.lateRuns i)[s.cpu].after (s.finds i) s.draws := by
  rcases hi with rfl | rfl
  · obtain ⟨hlate, hrun, -⟩ := s.forward_ack s.cpu
    exact ⟨hlate, hrun.trans (if_pos rfl)⟩
  · obtain ⟨hlate, hrun, -⟩ := s.forward_peek s.cpu
    exact ⟨hlate, hrun.trans (if_pos rfl)⟩

/-- An access by another CPU, or that is not read `i`, leaves a CPU's run of reads `i` alone. -/
theorem State.forward_lateRuns_other (s : State) {i j : Instr} {c : CpuId} (hi : DrawsLate i)
    (h : ¬ (s.cpu = c ∧ j = i)) : ((s.forward j).lateRuns i)[c] = (s.lateRuns i)[c] := by
  by_cases hack : j = .rdIcciar
  · subst hack
    obtain ⟨-, hrun, hpeek⟩ := s.forward_ack c
    rcases hi with rfl | rfl
    · exact hrun.trans (if_neg fun hc => h ⟨hc.symm, rfl⟩)
    · exact congrArg (·[c]) hpeek
  by_cases hpeek : j = .rdIcchpir
  · subst hpeek
    obtain ⟨-, hrun, hack⟩ := s.forward_peek c
    rcases hi with rfl | rfl
    · exact congrArg (·[c]) hack
    · exact hrun.trans (if_neg fun hc => h ⟨hc.symm, rfl⟩)
  · rw [s.forward_other j hack hpeek]

/-- Performing an access leaves the draw and the runs as its start made them. -/
theorem exec_keeps_forwarding {i : Instr} {s t : State} (h : exec i s = .next t) :
    t.late = s.late ∧ t.ackRun = s.ackRun ∧ t.peekRun = s.peekRun := by
  have hfields := (exec_sameOutside h).fields
  exact ⟨by rw [hfields], by rw [hfields], by rw [hfields]⟩

/-- A step that performs read `i` by `c` is that read's `exec`. -/
theorem step_of_performs {s t : State} {c : CpuId} {i : Instr} (hi : DrawsLate i) (hp : s.Performs c i)
    (h : step s = .next t) : ∃ rest, exec i (State.start { s with inbox := rest } c i) = .next t := by
  obtain ⟨r, rest, hin, rfl, hadmit, hrun⟩ := hp
  have hrest : State.halted { s with inbox := rest } = none := hrun
  have hstep : step s = exec i (State.start { s with inbox := rest } r.cpu i) := by
    rw [step_of_issue s r rest i hin hrun hadmit, State.issue, hrest]
    rcases hi with rfl | rfl <;> rfl
  exact ⟨rest, hstep.symm.trans h⟩

/-- R241: a step that performs read `i` by `c` makes its draw, and the run it belongs to goes on or ends. -/
theorem step_lateRuns_of_read {s t : State} {c : CpuId} {i : Instr} (hi : DrawsLate i) (hp : s.Performs c i)
    (h : step s = .next t) :
    t.late = (s.lateRuns i)[c].late (s.draws + 1) ∧
    (t.lateRuns i)[c] = (s.lateRuns i)[c].after ((s.begin c).finds i) (s.draws + 1) := by
  obtain ⟨rest, hexec⟩ := step_of_performs hi hp h
  obtain ⟨hlate, hack, hpeek⟩ := exec_keeps_forwarding hexec
  obtain ⟨hdraw, hrun⟩ := (State.begin { s with inbox := rest } c).forward_same hi
  rw [hlate, State.lateRuns_congr hack hpeek]
  exact ⟨hdraw, hrun⟩

/-- A step that does not perform read `i` by `c` leaves that run alone. -/
theorem step_lateRuns_of_other {s t : State} {c : CpuId} {i : Instr} (hi : DrawsLate i) (hp : ¬ s.Performs c i)
    (h : step s = .next t) : (t.lateRuns i)[c] = (s.lateRuns i)[c] := by
  obtain ⟨-, -, rfl⟩ | ⟨_, -, rfl⟩ | ⟨_, _, _, _, -, -, -, rfl⟩ | ⟨_, _, _, -, -, -, rfl⟩ |
    ⟨r, rest, hin, hrun, haccess⟩ := step_next s t h
  · rfl
  · rfl
  · rfl
  · rfl
  · have hstart (j : Instr) (hadmit : admissionOf s.par r = .admitted j) :
        ((State.start { s with inbox := rest } r.cpu j).lateRuns i)[c] = (s.lateRuns i)[c] :=
      (State.begin { s with inbox := rest } r.cpu).forward_lateRuns_other hi fun ⟨hc, hj⟩ =>
        hp ⟨r, rest, hin, hc, hj ▸ hadmit, hrun⟩
    obtain ⟨-, ⟨-, rfl⟩ | ⟨-, rfl⟩ | ⟨f, -, rfl⟩ | ⟨j, f, hadmit, -, rfl⟩ | ⟨j, hadmit, hexec⟩⟩ :=
      performAccess_next _ t r haccess
    · rfl
    · rfl
    · rfl
    · exact hstart j hadmit
    · obtain ⟨-, hack, hpeek⟩ := exec_keeps_forwarding hexec
      rw [State.lateRuns_congr hack hpeek]
      exact hstart j hadmit

/-- From step `start` on, `run k` is a run before step `k`, whose number is `now k`: each of the `reads` finds the block
ready and answers late, and no other step changes the run. -/
structure LateFrom (start : Nat) (run : Nat → LateRun) (now : Nat → Nat) (reads : Nat → Prop) : Prop where
  read : ∀ k, start ≤ k → reads k → (run k).late (now k) = true ∧ run (k + 1) = (run k).after true (now k)
  other : ∀ k, start ≤ k → ¬ reads k → run (k + 1) = run k

namespace LateFrom

variable {start : Nat} {run : Nat → LateRun} {now : Nat → Nat} {reads : Nat → Prop}

/-- The reads are over, or the next one finds the run as it is. -/
theorem next_read (h : LateFrom start run now reads) {k : Nat} (hk : start ≤ k) :
    (∀ j, k ≤ j → ¬ reads j) ∨ ∃ j, k ≤ j ∧ reads j ∧ run j = run k := by
  by_contra hnot
  obtain ⟨hsome, hchanged⟩ := not_or.mp hnot
  have hnone (j : Nat) (hj : k ≤ j) : run j = run k ∧ ¬ reads j := by
    induction j, hj using Nat.le_induction with
    | base => exact ⟨rfl, fun hr => hchanged ⟨k, Nat.le_refl k, hr, rfl⟩⟩
    | succ j hj ih =>
      have hsame : run (j + 1) = run k := (h.other j (hk.trans hj) ih.2).trans ih.1
      exact ⟨hsame, fun hr => hchanged ⟨j + 1, Nat.le_succ_of_le hj, hr, hsame⟩⟩
  exact hsome fun j hj => (hnone j hj).2

/-- R241: the reads of a run under way end, by induction on what is left of the length drawn for it. -/
theorem ends_of_begun (h : LateFrom start run now reads) {k : Nat} (hk : start ≤ k) (hbegun : 0 < (run k).count) :
    ∃ m, ∀ j, m ≤ j → ¬ reads j := by
  induction hleft : Config.drawLateRun (run k).since - (run k).count using Nat.strong_induction_on generalizing k with
  | _ left ih =>
    obtain hover | ⟨j, hj, hr, hsame⟩ := h.next_read hk
    · exact ⟨k, hover⟩
    obtain ⟨hlate, hnext⟩ := h.read j (hk.trans hj) hr
    obtain ⟨hafter, hbelow⟩ := (run j).after_late (now j) hlate
    have hsince : (run j).start (now j) = (run k).since := by
      rw [hsame, LateRun.start, if_neg hbegun.ne']
    rw [hsince, hsame] at hafter hbelow
    rw [hsame, hafter] at hnext
    refine ih _ ?_ (k := j + 1) (Nat.le_succ_of_le (hk.trans hj)) (hnext ▸ Nat.succ_pos _) rfl
    rw [hnext]
    show Config.drawLateRun (run k).since - ((run k).count + 1) < left
    omega

/-- R241: such reads end: the first of them begins a run, unless one is under way. -/
theorem ends (h : LateFrom start run now reads) : ∃ m, ∀ j, m ≤ j → ¬ reads j := by
  obtain hover | ⟨j, hj, hr, -⟩ := h.next_read (Nat.le_refl start)
  · exact ⟨start, hover⟩
  obtain ⟨hlate, hnext⟩ := h.read j hj hr
  refine h.ends_of_begun (Nat.le_succ_of_le hj) ?_
  rw [hnext, ((run j).after_late (now j) hlate).1]
  exact Nat.succ_pos _

end LateFrom

/-- R241: the draws are fair to read `i`, whatever `ready` finds that the forwarding draw finds too. -/
theorem fairReads {run : Nat → State} {arrive : Nat → List Event} (hexec : Execution run arrive) {i : Instr}
    (hi : DrawsLate i) {ready : State → CpuId → Prop} (c : CpuId)
    (hready : ∀ s, ready s c → (s.begin c).finds i = true) : FairReads run arrive i ready c := by
  intro start hfinds hendless
  by_contra hunfair
  have hlate : LateFrom start (fun k => ((run k).lateRuns i)[c]) (fun k => (run k).draws + 1)
      fun k => ((run k).receive (arrive k)).Performs c i := by
    refine ⟨fun k hk hr => ?_, fun k _ hr => step_lateRuns_of_other (s := (run k).receive _) hi hr (hexec k)⟩
    obtain ⟨hdraw, hrun⟩ := step_lateRuns_of_read hi hr (hexec k)
    have hfound : (((run k).receive (arrive k)).begin c).finds i = true := hready (run k) (hfinds k hk hr)
    rw [hfound] at hrun
    have htrue : (run (k + 1)).late = true := Bool.of_not_eq_false fun hfalse => hunfair ⟨k, hk, hr, hfalse⟩
    exact ⟨hdraw.symm.trans htrue, hrun⟩
  obtain ⟨m, hover⟩ := hlate.ends
  obtain ⟨k, hk, hr⟩ := hendless m
  exact hover k hk hr

/-- Settles O60, of each of the two reads: what it asks of the block is what its draw finds. -/
theorem forwardingIsFair : Obligations.ForwardingIsFair := by
  intro run arrive c hexec
  refine ⟨fairReads hexec (.inl rfl) c ?_, fairReads hexec (.inr rfl) c ?_⟩
  · rintro s ⟨e, hpick, hsignal⟩
    show Option.any _ _ = true
    rw [State.begin_cpu, hpick]
    exact hsignal
  · rintro s ⟨e, hpick⟩
    show Option.isSome _ = true
    rw [State.begin_cpu, hpick]
    rfl

end Sys2Proof.Machine
end

section
/-! How a driver program runs with no other agent in between (spec/46 R260 to R265, R276, R277; log 15), access by access:
an access of a running block goes on with what its instruction leaves, and the block still runs. -/

namespace Sys2Proof.Machine

/-- R330, R331: a block runs as long as neither halt record is set. -/
theorem State.halted_eq_none_iff (s : State) : s.halted = none ↔ s.fault = none ∧ s.refused = false := by
  unfold State.halted
  cases s.fault <;> simp

@[simp] theorem State.start_halted (s : State) (c : CpuId) (i : Instr) : (s.start c i).halted = s.halted := by
  simp [State.halted]

@[simp] theorem State.start_spiOf (s : State) (c : CpuId) (i : Instr) (n : Nat) : (s.start c i).spiOf n = s.spiOf n := by
  rw [State.spiOf, State.start_spi, State.spiOf]

@[simp] theorem State.ret_spiOf (s : State) (v : Word) (n : Nat) : (s.ret v).spiOf n = s.spiOf n := rfl

@[simp] theorem State.start_sgiOf (s : State) (c : CpuId) (i : Instr) (c2 : CpuId) (n : Nat) :
    (s.start c i).sgiOf c2 n = s.sgiOf c2 n := by
  rw [State.sgiOf, State.start_bank, State.sgiOf]

@[simp] theorem State.start_ppiOf (s : State) (c : CpuId) (i : Instr) (c2 : CpuId) (n : Nat) :
    (s.start c i).ppiOf c2 n = s.ppiOf c2 n := by
  rw [State.ppiOf, State.start_bank, State.ppiOf]

@[simp] theorem State.ret_sgiOf (s : State) (v : Word) (c : CpuId) (n : Nat) : (s.ret v).sgiOf c n = s.sgiOf c n := rfl

@[simp] theorem State.ret_ppiOf (s : State) (v : Word) (c : CpuId) (n : Nat) : (s.ret v).ppiOf c n = s.ppiOf c n := rfl

/-- R330: an access that completes halts nothing. -/
theorem exec_keeps_halted {i : Instr} {s t : State} (h : exec i s = .next t) : t.halted = s.halted := by
  rw [State.halted, (exec_sameOutside h).fields]
  rfl

section

variable {α : Type} {self : CpuId} {i : Instr} {w : World} {t : State}

theorem Prog.run_rd (next : Word → Prog α) (hrun : w.hw.halted = none) (h : exec i (w.hw.start self i) = .next t) :
    (Prog.rd i next).run self w = (next (t.rdata.getD 0)).run self (w.after self i t) := by
  simp [Prog.run, State.issue, hrun, h]

theorem Prog.run_wr (next : Prog α) (hrun : w.hw.halted = none) (h : exec i (w.hw.start self i) = .next t) :
    (Prog.wr i next).run self w = next.run self (w.after self i t) := by
  simp [Prog.run, State.issue, hrun, h]

@[simp] theorem World.after_hw : (w.after self i t).hw = t := rfl
@[simp] theorem World.after_soft : (w.after self i t).soft = w.soft := rfl

theorem Prog.run_acquire (next : Prog α) (hlock : w.soft.lock = none) :
    (Prog.acquire next).run self w = next.run self (w.withSoft fun soft => { soft with lock := some self }) := by
  simp [Prog.run, hlock]

/-- After a completed access of a running block, the block runs. -/
theorem World.after_halted (hrun : w.hw.halted = none) (h : exec i (w.hw.start self i) = .next t) :
    (w.after self i t).hw.halted = none :=
  (exec_keeps_halted h).trans ((w.hw.start_halted self i).trans hrun)

end

/-- R265: the range is checked, then the class of the ID, and no access is issued. -/
theorem checkLine_run {α : Type} (n : Nat) (next : Op α) (self : CpuId) (w : World) :
    (checkLine n next).run self w =
      if w.soft.maxLines ≤ n then .finished (.error .invalidConfiguration) w
      else if n < 16 then .finished (.error .unsupportedOperation) w
      else next.run self w := by
  simp only [checkLine, Prog.run]
  split_ifs <;> rfl

/-- R263, R264: with the lock free, a read-modify-write is its read and its write, and leaves the lock free. -/
theorem rmw_run {a : RmwArray} {n : Nat} {v : Word} {self : CpuId} {w : World} {i j : Instr} {t u : State}
    (hrun : w.hw.halted = none) (hlock : w.soft.lock = none) (hi : a.read (wordIndex n a.density) = i)
    (hread : exec i (w.hw.start self i) = .next t)
    (hj : a.write (wordIndex n a.density) (fieldPut (t.rdata.getD 0) n a.density v) = j)
    (hwrite : exec j (t.start self j) = .next u) :
    (rmw a n v).run self w = .finished (.ok ()) ((w.after self i t).after self j u) := by
  have hfree : { w.soft with lock := none } = w.soft := by rw [← hlock]
  rw [rmw, Prog.run_acquire _ hlock, hi, Prog.run_rd (w := w.withSoft _) _ hrun hread, hj,
    Prog.run_wr _ (World.after_halted (w := w.withSoft _) hrun hread) hwrite]
  show Turn.finished _ { (w.after self i t).after self j u with soft := { w.soft with lock := none } } = _
  rw [hfree]
  rfl

end Sys2Proof.Machine
end

section
/-! The driver's operations on one line (spec/46 R264 to R266, R270): what its reads of a packed array tell it, and what
the word it writes back stores. -/

namespace Sys2Proof.Machine

/-- R136: a field read has no bits beyond the field's width. -/
theorem setWidth_setWidth_fieldGet (v : Word) (n : Nat) (d : Density) :
    ((fieldGet v n d).setWidth d.width).setWidth 32 = fieldGet v n d := by
  apply BitVec.eq_of_getLsbD_eq
  intro j hj
  rw [BitVec.getLsbD_setWidth, BitVec.getLsbD_setWidth, fieldGet_getLsbD]
  simp [hj]

/-- R264: a read of the word of ID `n` in a packed array shows the entry of every implemented ID of that word. -/
theorem State.exists_word_of_readFields (s : State) {i : Instr} {n width : Nat} {d : Density} (hwidth : d.width = width)
    (g : Nat → BitVec width) (hread : exec i s = s.readFields (wordIndex n d) d fun m => (g m).setWidth 32) :
    ∃ word, exec i s = .next (s.ret word) ∧
      ∀ m, m < s.par.maxl → wordIndex m d = wordIndex n d → fieldGet word m d = (g m).setWidth 32 := by
  subst hwidth
  refine ⟨_, hread, fun m hm hword => ?_⟩
  have hid : d.fields * wordIndex n d + m % d.fields = m := by rw [← hword, wordIndex, Nat.div_add_mod]
  rw [← setWidth_setWidth_fieldGet, setWidth_fieldGet, Nat.mul_comm d.width,
    fieldword_extractLsb' _ _ _ _ (Nat.mod_lt m d.fields_pos), hid, if_pos hm]

/-- R205. -/
theorem State.exists_word_rdIcdicfr (s : State) (n : Nat) :
    ∃ word, exec (.rdIcdicfr (n / 16)) s = .next (s.ret word) ∧
      ∀ m, m < s.par.maxl → m / 16 = n / 16 → fieldGet word m .d16 = (s.cfgOf s.cpu m).setWidth 32 :=
  s.exists_word_of_readFields (d := .d16) (width := 2) rfl (s.cfgOf s.cpu) rfl

/-- R203. -/
theorem State.exists_word_rdIcdiptr (s : State) (n : Nat) :
    ∃ word, exec (.rdIcdiptr (n / 4)) s = .next (s.ret word) ∧
      ∀ m, m < s.par.maxl → m / 4 = n / 4 → fieldGet word m .d4 = (s.targetView s.cpu m).setWidth 32 :=
  s.exists_word_of_readFields (d := .d4) (width := 8) rfl (s.targetView s.cpu) rfl

/-- R201. -/
theorem State.exists_word_rdIcdipr (s : State) (n : Nat) :
    ∃ word, exec (.rdIcdipr (n / 4)) s = .next (s.ret word) ∧
      ∀ m, m < s.par.maxl → m / 4 = n / 4 → fieldGet word m .d4 = (s.prio s.cpu m).setWidth 32 :=
  s.exists_word_of_readFields (d := .d4) (width := 8) rfl (s.prio s.cpu) rfl

/-- Settles O56: the two checks come before any access; the empty target mask is found by two reads, which change no
line, interface or enable. -/
theorem enableLineRefusals : Obligations.EnableLineRefusals := by
  intro w self n hfault hrefused hmax
  have hrun := w.hw.halted_eq_none_iff.mpr ⟨hfault, hrefused⟩
  have hbounds := maxl_bounds w.hw.par
  refine ⟨fun hn => ?_, fun hn => ?_, fun hspi hn hone hempty => ?_⟩
  · rw [enableLine, checkLine_run, if_pos (hmax ▸ hn)]
  · rw [enableLine, checkLine_run, if_neg (by omega), if_pos hn]
  let s := w.hw.start self (.rdIcdicfr (n / 16))
  obtain ⟨cfg, hreadCfg, hcfg⟩ := s.exists_word_rdIcdicfr n
  let s2 := (s.ret cfg).start self (.rdIcdiptr (n / 4))
  obtain ⟨tgt, hreadTgt, htgt⟩ := s2.exists_word_rdIcdiptr n
  refine ⟨(w.after self (.rdIcdicfr (n / 16)) (s.ret cfg)).after self (.rdIcdiptr (n / 4)) (s2.ret tgt), ?_, ?_⟩
  · have hcfgBit : (fieldGet cfg n .d16).getLsbD 0 = true := by
      rw [hcfg n (by simpa [s] using hn) rfl, BitVec.getLsbD_setWidth, State.cfgOf_spi hspi, State.start_spiOf, hone]
      rfl
    have htgtField : fieldGet tgt n .d4 = 0 := by
      rw [htgt n (by simpa [s2, s] using hn) rfl, State.targetView, if_neg (by omega), State.start_spiOf,
        State.ret_spiOf, State.start_spiOf, hempty]
      rfl
    rw [enableLine, checkLine_run, if_neg (by omega), if_neg (by omega), if_pos hspi, Prog.run_rd _ hrun hreadCfg,
      State.ret_rdata, Option.getD_some, if_pos hcfgBit,
      Prog.run_rd _ (World.after_halted hrun hreadCfg) hreadTgt, State.ret_rdata, Option.getD_some, if_pos htgtField]
    rfl
  · simp [s, s2]

/-- R38: the priority of an SPI. -/
theorem State.prio_spi (s : State) (c : CpuId) {n : Nat} (h : 32 ≤ n) : s.prio c n = (s.spiOf n).prio := by
  rw [State.prio, if_neg (by omega), if_neg (by omega)]

/-- R38: a truncated priority is stored as it is. -/
theorem storedPrio_of_low {p : Byte} (h : p &&& 0x0F = 0) : storedPrio (p.setWidth 32) = p := by
  rw [storedPrio, BitVec.setWidth_setWidth_of_le _ (by decide), BitVec.setWidth_eq]
  exact (and_prioMask_and h (BitVec.allOnes 8)).symm.trans BitVec.and_allOnes

/-- R202, R264: what the fields of a word of priorities store after priority `p` is put in the field of `n`: `p` truncated
for `n` itself, and for another ID the truncated priority it had. -/
theorem extractLsb'_fieldPut_prio {word : Word} {n m : Nat} {old : Byte} (p : Byte) (hword : m / 4 = n / 4)
    (hold : fieldGet word m .d4 = old.setWidth 32) (hlow : old &&& 0x0F = 0) :
    (fieldPut word n .d4 ((p &&& prioMask).setWidth 32)).extractLsb' (8 * (m % 4)) 8 &&& 0xF0 =
      if m = n then p &&& 0xF0 else old := by
  rw [← storedPrio_fieldGet]
  split_ifs with hmn
  · rw [hmn, fieldGet_fieldPut_same, storedPrio, BitVec.setWidth_and,
      BitVec.setWidth_setWidth_of_le _ (by decide), BitVec.setWidth_eq]
    show p &&& prioMask &&& 0xFF &&& prioMask = p &&& 0xF0
    rw [BitVec.and_assoc, BitVec.and_assoc]
    rfl
  · have hother : fieldGet (fieldPut word n .d4 ((p &&& prioMask).setWidth 32)) m .d4 = fieldGet word m .d4 :=
      fieldGet_fieldPut_other _ _ (Ne.symm hmn) hword.symm
    rw [hother, hold, storedPrio_of_low hlow]

/-- Settles O57: the word of the SPI is read and written back with one field changed; its other IDs are SPIs too, and
store the truncated priorities they had. -/
theorem setPriorityTouchesOneLine : Obligations.SetPriorityTouchesOneLine := by
  intro w self n p hfault hrefused hlock hmax hlow hspi hn
  have hrun := w.hw.halted_eq_none_iff.mpr ⟨hfault, hrefused⟩
  let s := w.hw.start self (.rdIcdipr (n / 4))
  obtain ⟨word, hread, hfield⟩ := s.exists_word_rdIcdipr n
  let v := fieldPut word n .d4 ((p &&& prioMask).setWidth 32)
  let s2 := (s.ret word).start self (.wrIcdipr (n / 4) v)
  obtain ⟨t, hwrite, -, hsgi, hppi, hspis⟩ := writePriorities s2 (n / 4) v
  refine ⟨(w.after self (.rdIcdipr (n / 4)) (s.ret word)).after self (.wrIcdipr (n / 4) v) t, ?_, rfl,
    fun c m hm => ?_, fun c m h1 h2 => ?_, fun m hm => ?_⟩
  · rw [setPriority, checkLine_run, if_neg (by omega), if_neg (by omega)]
    exact rmw_run hrun hlock rfl hread rfl hwrite
  · simpa [s2, s, show ¬ m / 4 = n / 4 by omega] using hsgi c m hm
  · simpa [s2, s, show ¬ m / 4 = n / 4 by omega] using hppi c m h1 h2
  · have hsame : s2.spiOf m = w.hw.spiOf m := by simp [s2, s]
    have hpar : s2.par = w.hw.par := by simp [s2, s]
    have hnew := hspis m hm
    rw [hsame, hpar] at hnew
    rw [World.after_hw, hnew]
    beta_reduce
    by_cases hword : m < w.hw.par.maxl ∧ m / 4 = n / 4
    · have hold : fieldGet word m .d4 = (w.hw.spiOf m).prio.setWidth 32 := by
        rw [hfield m (by simpa [s] using hword.1) hword.2, State.prio_spi _ _ hm, State.start_spiOf]
      have htrunc : (w.hw.spiOf m).prio &&& 0x0F = 0 := w.hw.prio_spi self hm ▸ (hlow self).1 m hword.1
      rw [if_pos hword, extractLsb'_fieldPut_prio p hword.2 hold htrunc]
      split_ifs <;> rfl
    · rw [if_neg hword, if_neg fun hmn : m = n => hword ⟨hmn ▸ hn, hmn ▸ rfl⟩]

end Sys2Proof.Machine
end

section
/-! The dispatch (spec/46 R276, R277, R280), without shadow stacks: its acknowledge, what it does with the claim, and the
end-of-interrupt that the claim's own value matches. -/

namespace Sys2Proof.Machine

/-- R240: an acknowledge that pushes `e` claims it as a candidate, and returns the value that names it. -/
theorem acknowledge_of_pushed {s t : State} {e : Entry} {raw : Word} (h : exec .rdIcciar s = .next t)
    (hstk : (t.ifOf s.cpu).stk = e :: (s.ifOf s.cpu).stk) (hraw : t.rdata = some raw) :
    e ∈ s.cand s.cpu ∧ raw = claimWord e.id e.src := by
  have ht : s.acknowledge s.late (Config.drawTie s.draws) = t := Host.Outcome.next.inj h
  obtain ⟨v, hret⟩ | ⟨c, -, hpick, -, -, hclaim⟩ := s.acknowledge_cases s.late (Config.drawTie s.draws)
  · have hsame : (t.ifOf s.cpu).stk = (s.ifOf s.cpu).stk := by rw [← ht, hret]; rfl
    exact (List.cons_ne_self _ _ (hstk.symm.trans hsame)).elim
  · rw [hclaim] at ht
    have hpush : (t.ifOf s.cpu).stk = c :: (s.ifOf s.cpu).stk := by
      rw [← ht]
      exact (s.claim_stk s.cpu c s.cpu).trans (if_pos rfl)
    obtain rfl : c = e := (List.cons.inj (hpush.symm.trans hstk)).1
    have hret : t.rdata = some (claimWord c.id c.src) := by rw [← ht]; rfl
    exact ⟨(s.hppi_mem s.cpu _ c hpick).1, Option.some.inj (hraw.symm.trans hret)⟩

/-- R240: with no candidate the acknowledge returns the spurious ID, late or not. -/
theorem exec_rdIcciar_of_no_cand {s : State} (h : s.cand s.cpu = []) : exec .rdIcciar s = .next (s.ret spuriousId) := by
  show Host.Outcome.next (s.acknowledge s.late _) = _
  cases s.late with
  | true => rfl
  | false => rw [s.acknowledge_of_no_cand h]

/-- R240, R242: the value a candidate is claimed with ends it, once it is again the top of a stack. -/
theorem exec_wrIcceoir_of_claimed {s u : State} {c : CpuId} {e : Entry} (hmem : e ∈ s.cand c) (hcpu : u.cpu = c)
    (htop : u.top c = some e) : exec (.wrIcceoir (claimWord e.id e.src)) u = .next (u.release c e) := by
  have hid := State.id_lt_of_mem_cand hmem
  refine (execWrIcceoir_of_top _ hcpu htop).trans (if_pos ⟨claimId_claimWord hid e.src, ?_⟩)
  rw [claimSrc_claimWord hid]
  split_ifs with hsgi
  · rfl
  · exact congrArg Fin.val (State.src_of_mem_cand hmem (Nat.not_lt.mp hsgi))

section

variable {self : CpuId} {w : World} {t : State}

/-- R276: a spurious acknowledge is one read, and the empty result. -/
theorem acknowledge_run_of_spurious (hrun : w.hw.halted = none)
    (h : exec .rdIcciar (w.hw.start self .rdIcciar) = .next (t.ret spuriousId)) :
    (acknowledge self).run self w = .finished (.error .spuriousClaim) (w.after self .rdIcciar (t.ret spuriousId)) := by
  rw [acknowledge, Prog.run_rd _ hrun h]
  rfl

/-- R276: an acknowledge that returns an interrupt is one read, and its claim. -/
theorem acknowledge_run_of_claim {raw : Word} (hrun : w.hw.halted = none)
    (h : exec .rdIcciar (w.hw.start self .rdIcciar) = .next t) (hraw : t.rdata = some raw) (hid : claimId raw ≠ 1023)
    (htracking : w.soft.tracking = false) :
    (acknowledge self).run self w = .finished (.ok (.ofRaw raw)) (w.after self .rdIcciar t) := by
  have hspurious : (PendingClaim.ofRaw raw).id ≠ 1023 := hid
  rw [acknowledge, Prog.run_rd _ hrun h, hraw, Option.getD_some, if_neg hspurious, Prog.run, World.after_soft,
    htracking]
  simp [Prog.ok, Prog.run]

/-- R277: without shadow stacks an end-of-interrupt is one write. -/
theorem endOfInterrupt_run {claim : PendingClaim} (hrun : w.hw.halted = none) (htracking : w.soft.tracking = false)
    (h : exec (.wrIcceoir claim.raw) (w.hw.start self (.wrIcceoir claim.raw)) = .next t) :
    (endOfInterrupt self claim).run self w = .finished (.ok ()) (w.after self (.wrIcceoir claim.raw) t) := by
  rw [endOfInterrupt, Prog.run, htracking]
  simp only [Bool.false_eq_true, if_false]
  rw [Prog.run_wr _ hrun h]
  rfl

variable {handlers : Handlers} {claim : PendingClaim} {w1 w2 : World}

/-- R280: a spurious claim is a no-op. -/
theorem dispatch_run_of_error {e : DriverError} (hack : (acknowledge self).run self w = .finished (.error e) w1) :
    (dispatch handlers self).run self w = .finished (.ok ()) w1 := by
  rw [dispatch, Prog.run_bind, hack]
  rfl

/-- R280: a claim with no handler is logged, then ended. -/
theorem dispatch_run_of_no_handler (hack : (acknowledge self).run self w = .finished (.ok claim) w1)
    (hid : claim.id ≠ 1022) (hnone : w1.soft.handlerOf claim.id = none) :
    (dispatch handlers self).run self w = (endOfInterrupt self claim).run self
      (w1.withSoft fun soft => { soft with log := .noHandler claim :: soft.log }) := by
  rw [dispatch, Prog.run_bind, hack]
  simp only [Turn.chain, if_neg hid, Prog.run, hnone]

/-- R280: a claim with a handler is ended after the handler. -/
theorem dispatch_run_of_handler {h : Nat} (hack : (acknowledge self).run self w = .finished (.ok claim) w1)
    (hid : claim.id ≠ 1022) (hsome : w1.soft.handlerOf claim.id = some h)
    (hhandler : (handlers h claim).run self
      (w1.withSoft fun soft => { soft with calls := (self, h, claim) :: soft.calls }) = .finished () w2) :
    (dispatch handlers self).run self w = (endOfInterrupt self claim).run self w2 := by
  rw [dispatch, Prog.run_bind, hack]
  simp only [Turn.chain, if_neg hid, Prog.run, hsome, Prog.run_bind, hhandler]

/-- R242, R277: the end-of-interrupt with the value a candidate is claimed with, once it is again the top of the stack,
completes and pops it. -/
theorem endOfInterrupt_run_of_claimed {s : State} {e : Entry} {rest : List Entry} {raw : Word} (hmem : e ∈ s.cand self)
    (hraw : raw = claimWord e.id e.src) (hstk : (w.hw.ifOf self).stk = e :: rest) (hrun : w.hw.halted = none)
    (htracking : w.soft.tracking = false) :
    ∃ w2 : World, (endOfInterrupt self (.ofRaw raw)).run self w = .finished (.ok ()) w2 ∧
      w2.issued = (self, .wrIcceoir raw) :: w.issued ∧ w2.soft = w.soft ∧ (w2.hw.ifOf self).stk = rest := by
  subst hraw
  let u := w.hw.start self (.wrIcceoir (claimWord e.id e.src))
  have hstart : (u.ifOf self).stk = e :: rest := by simpa [u, State.ifOf] using hstk
  have hexec := exec_wrIcceoir_of_claimed hmem (u := u) (by simp [u]) (State.top_of_cons hstart)
  refine ⟨_, endOfInterrupt_run hrun htracking hexec, rfl, rfl, ?_⟩
  rw [World.after_hw, State.release_stk, if_pos rfl, hstart, List.tail_cons]

end

/-- Settles O58. With no candidate the acknowledge is spurious. A claim is of a candidate, whose value is neither special
ID, and ends it when it is again the top of the stack. -/
theorem dispatchOutcomes : Obligations.DispatchOutcomes := by
  intro w self handlers hfault hrefused s
  have hrun := w.hw.halted_eq_none_iff.mpr ⟨hfault, hrefused⟩
  have hcpu : s.cpu = self := by simp [s]
  refine ⟨fun hcand => ?_, fun t e raw hexec hstk hraw htracking => ?_⟩
  · have hack := acknowledge_run_of_spurious hrun (exec_rdIcciar_of_no_cand (s := s) (hcpu ▸ hcand))
    exact ⟨_, dispatch_run_of_error hack, rfl, rfl⟩
  · obtain ⟨hmem, hvalue⟩ := acknowledge_of_pushed hexec (hcpu ▸ hstk) hraw
    rw [hcpu] at hmem
    have hclaim : (PendingClaim.ofRaw raw).id = e.id :=
      hvalue ▸ claimId_claimWord (State.id_lt_of_mem_cand hmem) e.src
    have hmaxl := ((s.mem_cand self e).mp hmem).1
    have hbounds := maxl_bounds s.par
    have hack := acknowledge_run_of_claim hrun hexec hraw (hclaim.trans_ne (by omega)) htracking
    have hid := hclaim.trans_ne (show e.id ≠ 1022 by omega)
    have hbefore : (s.ifOf self).stk = (w.hw.ifOf self).stk := by simp [s, State.ifOf]
    rw [← hclaim, ← hbefore]
    refine ⟨fun hnone => ?_, fun h w1 hsome hhandler hfault1 hrefused1 htracking1 hkept => ?_⟩
    · rw [dispatch_run_of_no_handler hack hid hnone]
      exact endOfInterrupt_run_of_claimed hmem hvalue hstk (World.after_halted hrun hexec) htracking
    · rw [dispatch_run_of_handler hack hid hsome hhandler]
      exact endOfInterrupt_run_of_claimed hmem hvalue (hkept.trans hstk)
        (w1.hw.halted_eq_none_iff.mpr ⟨hfault1, hrefused1⟩) htracking1

end Sys2Proof.Machine
end

section
/-! The candidates of a CPU (spec/60 R302, R310 to R314), in the fields of their lines: the conditions of R311 one by
one, and what the encoder picks among the candidates. -/

namespace Sys2Proof.Machine

/- The conditions of R311. -/

section

variable (s : State) (c : CpuId) (n : Nat)

/-- R37: the group is told by the security bit. -/
theorem State.grp_eq_g1_iff : s.grp c n = .g1 ↔ s.InGroup1 c n := by
  show (if s.sec c n then Group.g1 else Group.g0) = .g1 ↔ s.sec c n = true
  cases s.sec c n <;> decide

/-- R313: a line is forwarded through the two gates of the group its security bit names. -/
theorem State.gatesOpen_iff :
    s.dcrEn (s.grp c n) = true ∧ s.cpuEn c (s.grp c n) = true ↔ s.GatesOpen c (s.sec c n) := by
  unfold State.grp State.GatesOpen
  cases s.sec c n <;> rfl

/-- R311: the conditions on an ID and a source. -/
theorem State.isCand_eq_true_iff (src : CpuId) : s.isCand c n src = true ↔
    s.epend c n src = true ∧ s.eact c n = false ∧ s.en c n = true ∧ s.route c n = true ∧
      s.GatesOpen c (s.sec c n) := by
  rw [← s.gatesOpen_iff c n]
  simp only [State.isCand, Bool.and_eq_true, Bool.not_eq_true']
  tauto

end

/-- R313: where the Distributor forwards neither group, no CPU has a candidate. -/
theorem State.cand_eq_nil_of_disabled {s : State} (h0 : s.dcrEn0 = false) (h1 : s.dcrEn1 = false) (c : CpuId) :
    s.cand c = [] := by
  have hgroup : ∀ g, s.dcrEn g = false := fun g => by cases g <;> assumption
  refine List.eq_nil_iff_forall_not_mem.mpr fun e he => ?_
  obtain ⟨-, -, hcand, -⟩ := (s.mem_cand c e).mp he
  simp [State.isCand, hgroup] at hcand

/- The candidates, by the class of the ID. -/

section

variable (s : State) (c : CpuId) (e : Entry)

theorem State.mem_cand_sgi (h : e.id < 16) : e ∈ s.cand c ↔ e.id < s.par.maxl ∧
    e.src.val < s.par.ncpu ∧ e.prio = (s.sgiOf c e.id).prio ∧ (s.sgiOf c e.id).pend[e.src] = true ∧
    (s.sgiOf c e.id).act = none ∧ s.GatesOpen c (s.sgiOf c e.id).sec := by
  have h32 : e.id < 32 := by omega
  simp only [State.mem_cand, State.isCand_eq_true_iff, State.sourcesOf, State.prio, State.epend, State.eact, State.en,
    State.route, State.sec, if_pos h, if_pos h32, mem_cpus, Option.isSome_eq_false_iff, Option.isNone_iff_eq_none,
    true_and]
  tauto

theorem State.mem_cand_ppi (h16 : 16 ≤ e.id) (h32 : e.id < 32) : e ∈ s.cand c ↔ e.id < s.par.maxl ∧
    e.src = 0 ∧ e.prio = (s.ppiOf c e.id).prio ∧
    ((s.ppiOf c e.id).latch = true ∨ ((s.ppiOf c e.id).cfg.getLsbD 1 = false ∧ (s.ppiOf c e.id).level = true)) ∧
    (s.ppiOf c e.id).act = false ∧ (s.ppiOf c e.id).en = true ∧ s.GatesOpen c (s.ppiOf c e.id).sec := by
  simp only [State.mem_cand, State.isCand_eq_true_iff, State.sourcesOf, State.prio, State.epend, State.eact, State.en,
    State.route, State.sec, State.isLevel, State.isEdge, State.cfgOf_ppi h16 h32, if_neg (Nat.not_lt.mpr h16),
    if_pos h32, List.mem_singleton, Bool.and_eq_true, Bool.or_eq_true, Bool.not_eq_true', beq_iff_eq, true_and]
  tauto

theorem State.mem_cand_spi (h : 32 ≤ e.id) : e ∈ s.cand c ↔ e.id < s.par.maxl ∧
    e.src = 0 ∧ e.prio = (s.spiOf e.id).prio ∧ (s.spiOf e.id).en = true ∧ (s.spiOf e.id).tgt.getLsbD c.val = true ∧
    s.GatesOpen c (s.spiOf e.id).sec ∧
    if (s.spiOf e.id).cfg.getLsbD 0 then
      ((s.spiOf e.id).latch1 = true ∨ ((s.spiOf e.id).cfg.getLsbD 1 = false ∧ (s.spiOf e.id).level = true)) ∧
      (s.spiOf e.id).act1 = none
    else
      ((s.spiOf e.id).latchN[c] = true ∨ ((s.spiOf e.id).cfg.getLsbD 1 = false ∧ (s.spiOf e.id).level = true)) ∧
      (s.spiOf e.id).actN[c] = false := by
  have h16 : ¬ e.id < 16 := by omega
  simp only [State.mem_cand, State.isCand_eq_true_iff, State.sourcesOf, State.prio, State.epend, State.eact, State.en,
    State.route, State.sec, State.oneN, State.isLevel, State.isEdge, State.cfgOf_spi h, if_neg h16,
    if_neg (Nat.not_lt.mpr h), List.mem_singleton]
  cases (s.spiOf e.id).cfg.getLsbD 0 with
  | true =>
    simp only [if_true, Bool.and_eq_true, Bool.or_eq_true, Bool.not_eq_true', beq_iff_eq, Option.isSome_eq_false_iff,
      Option.isNone_iff_eq_none]
    tauto
  | false =>
    simp only [Bool.false_eq_true, if_false, Bool.and_eq_true, Bool.or_eq_true, Bool.not_eq_true', beq_iff_eq]
    tauto

end

/-- Settles O25, by the class of the ID; the views of a line are its fields by definition. -/
theorem candidateConditions : Obligations.CandidateConditions := by
  intro s c
  refine ⟨fun e => ?_, fun n => ⟨s.grp_eq_g1_iff c n, rfl, rfl, rfl⟩⟩
  split_ifs with h16 h32
  · exact s.mem_cand_sgi c e h16
  · exact s.mem_cand_ppi c e (Nat.not_lt.mp h16) h32
  · exact s.mem_cand_spi c e (Nat.not_lt.mp h32)

/-- Settles O27: what R311 asks of the active state of each class of line. -/
theorem activeIsNotForwarded : Obligations.ActiveIsNotForwarded := by
  intro s c e he
  refine ⟨fun h => ?_, fun h16 h32 => ?_, fun h hone => ?_, fun h hnN => ?_⟩
  · obtain ⟨-, -, -, -, hact, -⟩ := (s.mem_cand_sgi c e h).mp he
    exact hact
  · obtain ⟨-, -, -, -, hact, -⟩ := (s.mem_cand_ppi c e h16 h32).mp he
    exact hact
  · obtain ⟨-, -, -, -, -, -, hmodel⟩ := (s.mem_cand_spi c e h).mp he
    rw [if_pos hone] at hmodel
    exact hmodel.2
  · obtain ⟨-, -, -, -, -, -, hmodel⟩ := (s.mem_cand_spi c e h).mp he
    rw [if_neg (Bool.eq_false_iff.mp hnN)] at hmodel
    exact hmodel.2

/- The encoder (R314) and the request outputs (R318). -/

/-- R314: the draws pick exactly the candidates of the least priority value. -/
theorem State.exists_hppi_iff (s : State) (c : CpuId) (e : Entry) :
    (∃ tie, s.hppi c tie = some e) ↔ e ∈ leastOf (s.cand c) := by
  constructor
  · rintro ⟨tie, hpick⟩
    exact List.mem_of_getElem? hpick
  · intro hmem
    obtain ⟨i, hi, hget⟩ := List.mem_iff_getElem.mp hmem
    exact ⟨i, by rw [State.hppi, Nat.mod_eq_of_lt hi, List.getElem?_eq_getElem hi, hget]⟩

/-- Settles O26: the draws pick exactly the candidates of the least priority value. -/
theorem tieBreakIsFree : Obligations.TieBreakIsFree :=
  fun s c e => (s.exists_hppi_iff c e).trans (mem_leastOf (s.cand c) e)

/-- R318: a group is requested when the encoder's choice under some draw is of that group and may be signalled. -/
theorem State.req_eq_true_iff (s : State) (c : CpuId) (g : Group) :
    s.req c g = true ↔ ∃ tie e, s.hppi c tie = some e ∧ s.signalOk c e = true ∧ s.grp c e.id = g := by
  rw [exists_comm]
  simp only [exists_and_right, State.exists_hppi_iff, State.req, List.any_eq_true, Bool.and_eq_true, beq_iff_eq]
  exact exists_congr fun e => and_congr_right fun _ => and_comm

/-- Settles O32: FIQ is the request of Group 0 under FIQEn, and IRQ the other requests. -/
theorem requestOutputs : Obligations.RequestOutputs := by
  intro s c
  refine ⟨by rw [State.fiq, Bool.and_eq_true, State.req_eq_true_iff], ?_⟩
  rw [State.irq, Bool.or_eq_true, Bool.and_eq_true, Bool.not_eq_true', State.req_eq_true_iff, State.req_eq_true_iff]
  constructor
  · rintro (⟨tie, e, hpick, hsignal, hgroup⟩ | ⟨hfiqEn, tie, e, hpick, hsignal, -⟩)
    · exact ⟨tie, e, hpick, hsignal, .inl hgroup⟩
    · exact ⟨tie, e, hpick, hsignal, .inr hfiqEn⟩
  · rintro ⟨tie, e, hpick, hsignal, hgroup | hfiqEn⟩
    · exact .inl ⟨tie, e, hpick, hsignal, hgroup⟩
    · cases hgroup : s.grp c e.id with
      | g0 => exact .inr ⟨hfiqEn, tie, e, hpick, hsignal, hgroup⟩
      | g1 => exact .inl ⟨tie, e, hpick, hsignal, hgroup⟩

end Sys2Proof.Machine
end

section
/-! When a candidate may be signalled (spec/45 R236, spec/60 R316, R317, R319, R324): group priorities as numbers, what
the invariant of the active stacks forbids, and what an acknowledge may claim. -/

namespace Sys2Proof.Machine

/-- R236: a group mask rounds a priority down to a multiple of a power of two. -/
theorem and_highOnes_toNat (p : Byte) (cut : Nat) : (p &&& 0xFF#8 <<< cut).toNat = p.toNat / 2 ^ cut * 2 ^ cut := by
  have hmask : p &&& 0xFF#8 <<< cut = p >>> cut <<< cut := BitVec.shiftLeft_ushiftRight.symm
  rw [hmask, BitVec.toNat_shiftLeft, BitVec.toNat_ushiftRight, Nat.shiftLeft_eq, Nat.shiftRight_eq_div_pow,
    Nat.mod_eq_of_lt ((Nat.div_mul_le_self _ _).trans_lt p.isLt)]

/-- R236: the binary point of a group, as the number of priority bits below it. -/
theorem State.gp_toNat (s : State) (c : CpuId) (g : Group) (p : Byte) :
    let cut := if g = .g0 ∨ (s.ifOf c).icr.sbpr = true then (s.ifOf c).bpr.toNat + 1 else (s.ifOf c).abpr.toNat
    (s.gp c g p).toNat = p.toNat / 2 ^ cut * 2 ^ cut := by
  rw [State.gp, State.gmask, ← apply_ite (0xFF#8 <<< ·), and_highOnes_toNat]

/-- R236: a group priority does not reverse the order of priorities. -/
theorem State.gp_mono (s : State) (c : CpuId) (g : Group) {p q : Byte} (h : p ≤ q) : s.gp c g p ≤ s.gp c g q := by
  rw [BitVec.le_def, State.gp_toNat, State.gp_toNat]
  exact Nat.mul_le_mul_right _ (Nat.div_le_div_right h)

/-- R316, R317: below the mask, and below the top of the stack if there is one. -/
theorem State.signalOk_eq_true_iff (s : State) (c : CpuId) (e : Entry) : s.signalOk c e = true ↔
    e.prio < (s.ifOf c).pmr ∧ ∀ top rest, (s.ifOf c).stk = top :: rest →
      s.gp c (s.grp c e.id) e.prio < s.gp c (s.grp c e.id) top.prio := by
  rw [State.signalOk, Bool.and_eq_true, decide_eq_true_eq, State.preemptOk]
  cases hstk : (s.ifOf c).stk with
  | nil => simp [State.top_of_nil hstk]
  | cons top rest => simp [State.top_of_cons hstk]

/-- Settles O59: the two tests of a signal, and the number a group priority is. -/
theorem signalConditions : Obligations.SignalConditions :=
  fun s c => ⟨s.signalOk_eq_true_iff c, s.gp_toNat c⟩

/-- R319 (b): nothing on a sound stack is below its top. -/
theorem CpuIf.Sound.top_le {i : CpuIf} (h : i.Sound) {top : Entry} {rest : List Entry} (hstk : i.stk = top :: rest) :
    ∀ x ∈ i.stk, top.prio ≤ x.prio := by
  have hnests := h.nests
  rw [hstk] at hnests ⊢
  rintro x (_ | ⟨_, hx⟩)
  · exact BitVec.le_refl _
  · exact BitVec.le_of_lt ((List.pairwise_cons.mp hnests).1 x hx)

/-- Settles O31: 0xF0 is not below a mask, and no group priority is below 0, that of the top of the stack if any
entry has it. -/
theorem neverSignalled : Obligations.NeverSignalled := by
  intro s c e hinv
  have hsound := (s.inv_iff.mp hinv).1.cpuIf c
  refine ⟨fun hprio => Bool.eq_false_iff.mpr fun hsignal => ?_,
    fun ⟨x, hx, hzero⟩ => Bool.eq_false_iff.mpr fun hsignal => ?_⟩
  · obtain ⟨hmask, -⟩ := (s.signalOk_eq_true_iff c e).mp hsignal
    exact absurd (hprio ▸ hmask) (BitVec.not_lt.mpr (le_of_low_zero hsound.mask))
  · obtain ⟨-, hpreempt⟩ := (s.signalOk_eq_true_iff c e).mp hsignal
    obtain ⟨top, rest, hstk⟩ := List.exists_cons_of_ne_nil (List.ne_nil_of_mem hx)
    have hle := s.gp_mono c (s.grp c e.id) (hsound.top_le hstk x hx)
    rw [hzero] at hle
    exact Nat.not_lt_zero _ (Nat.lt_of_lt_of_le (hpreempt top rest hstk) hle)

/-- R319 (b): the priorities on a sound stack differ. -/
theorem CpuIf.Sound.nodup_prio {i : CpuIf} (h : i.Sound) : (i.stk.map Entry.prio).Nodup :=
  List.pairwise_map.mpr (h.nests.imp fun hlt => BitVec.ne_of_lt hlt)

/-- R7: the sixteen storable priorities. -/
theorem mem_storable_of_low_zero : ∀ p : Byte, p &&& 0x0F = 0 →
    p ∈ (List.range 16).map fun k => BitVec.ofNat 8 (16 * k) := by
  decide

/-- Settles O50: the priorities on a stack are storable and differ, and there are sixteen of them. -/
theorem nestingIsBounded : Obligations.NestingIsBounded := by
  intro s c hinv
  have hsound := (s.inv_iff.mp hinv).1.cpuIf c
  have hsubset : (s.ifOf c).stk.map Entry.prio ⊆ (List.range 16).map fun k => BitVec.ofNat 8 (16 * k) := by
    intro p hp
    obtain ⟨e, he, rfl⟩ := List.mem_map.mp hp
    exact mem_storable_of_low_zero e.prio (hsound.storable e he).1
  simpa using (hsound.nodup_prio.subperm hsubset).length_le

/-- Settles O23: late or without a candidate the acknowledge is spurious; otherwise it turns on the encoder's choice. -/
theorem acknowledgeOutcome : Obligations.AcknowledgeOutcome := by
  intro s
  obtain ⟨hexec, hspurious, hnone, hsome⟩ := acknowledgeCases s (Config.drawTie s.draws)
  obtain hlate | htimely := s.late.eq_false_or_eq_true
  · exact ⟨_, hlate ▸ hexec, .inl hspurious⟩
  refine ⟨_, htimely ▸ hexec, ?_⟩
  by_cases hcand : s.cand s.cpu = []
  · exact .inl (hnone hcand)
  obtain ⟨e, hmem, hleast, hmasked, hsignalled⟩ := hsome hcand
  cases hsignal : s.signalOk s.cpu e with
  | false => exact .inl (hmasked hsignal)
  | true => exact .inr ⟨e, hmem, hleast, hsignal, hsignalled hsignal⟩

end Sys2Proof.Machine
end

section
/-! The pending state of an asserted level-sensitive line (spec/60 R302, R304), and the level events (spec/60 R300). -/

namespace Sys2Proof.Machine

/-- R182, R302, R304: a level-sensitive line whose input is asserted is pending, whatever its latches hold. -/
theorem State.pending_of_asserted {s : State} {c : CpuId} {n : Nat} (h16 : 16 ≤ n) (hlevel : s.isLevel c n = true)
    (hinput : (if n < 32 then (s.ppiOf c n).level else (s.spiOf n).level) = true) :
    s.pendView c n = true ∧ s.epend c n 0 = true := by
  rw [State.pendView, State.epend, if_neg (Nat.not_lt.mpr h16), if_neg (Nat.not_lt.mpr h16)]
  split_ifs at hinput ⊢ <;> simp [hlevel, hinput]

/-- R180: clearing the pending state of lines leaves every trigger configuration as it was. -/
theorem exec_wrIcdicpr_cfgOf {s t : State} {k : Nat} {v : Word} (h : exec (.wrIcdicpr k v) s = .next t) (c : CpuId)
    (n : Nat) : t.cfgOf c n = s.cfgOf c n := by
  cases h
  unfold State.cfgOf
  split_ifs with h16 h32
  · rfl
  · rw [State.ppiOf_updSpi, State.ppiOf_updPpi s _ _ c n (Nat.not_lt.mp h16) h32]
    exact keeps_ite PpiLine.cfg (keeps_ite PpiLine.cfg rfl)
  · rw [State.spiOf_updSpi _ _ n (Nat.not_lt.mp h32), State.spiOf_updPpi]
    exact keeps_ite SpiLine.cfg (keeps_ite SpiLine.cfg rfl)

/-- Settles O12: the write keeps the input levels and the configurations, and an asserted level-sensitive line
is pending. -/
theorem assertedLevelStaysPending : Obligations.AssertedLevelStaysPending := by
  intro s t k v c n h h16 _ hlevel hinput
  have hframe := exec_sameOutside h
  refine State.pending_of_asserted h16 ?_ ?_
  · rwa [State.isLevel, State.isEdge, exec_wrIcdicpr_cfgOf h]
  · split_ifs at hinput ⊢ with h32
    · rw [hframe.ppiLevel c n h16 h32, hinput]
    · rw [hframe.spiLevel n (Nat.not_lt.mp h32), hinput]

/-- What an update of the PPIs of `c` alone does to every line. -/
theorem State.linesBecome_updPpi (s : State) (c : CpuId) {fp : Nat → PpiLine → PpiLine}
    {sgi : CpuId → Nat → SgiLine → SgiLine → Prop} {ppi : CpuId → Nat → PpiLine → PpiLine → Prop}
    {spi : Nat → SpiLine → SpiLine → Prop} (hsgi : ∀ c2 n l, sgi c2 n l l)
    (hppi : ∀ c2 n l, ppi c2 n l (if c2 = c then fp n l else l)) (hspi : ∀ n l, spi n l l) :
    s.LinesBecome (s.updPpi c fp) sgi ppi spi := by
  refine ⟨fun c2 n _ => ?_, fun c2 n h1 h2 => ?_, fun n _ => hspi ..⟩
  · rw [State.sgiOf_updPpi]
    exact hsgi ..
  · rw [State.ppiOf_updPpi s c fp c2 n h1 h2]
    exact hppi ..

/-- The events still to come are no part of a line. -/
theorem State.LinesBecome.of_inbox {s t : State} {sgi : CpuId → Nat → SgiLine → SgiLine → Prop}
    {ppi : CpuId → Nat → PpiLine → PpiLine → Prop} {spi : Nat → SpiLine → SpiLine → Prop} (rest : List Event)
    (h : State.LinesBecome { s with inbox := rest } t sgi ppi spi) : s.LinesBecome t sgi ppi spi := h

/-- R88, R300: a step of a running block takes the level event of an input that exists. -/
theorem step_setLevelPpi {s : State} {c : CpuId} {n : Nat} {b : Bool} {rest : List Event}
    (hin : s.inbox = .setLevelPpi c n b :: rest) (hrun : s.halted = none) (hexists : s.hasPpi c n = true) :
    step s = .next (State.setLevelPpi { s with inbox := rest } c n b) := by
  simp only [step, hin, hrun, Option.getD_none, performEvent]
  exact if_pos hexists

theorem step_setLevelSpi {s : State} {n : Nat} {b : Bool} {rest : List Event}
    (hin : s.inbox = .setLevelSpi n b :: rest) (hrun : s.halted = none) (hexists : s.hasSpi n = true) :
    step s = .next (State.setLevelSpi { s with inbox := rest } n b) := by
  simp only [step, hin, hrun, Option.getD_none, performEvent]
  exact if_pos hexists

/-- R300: a level event of an SPI: a rising edge of an edge-triggered input latches by the model bit. -/
theorem SpiLine.setLevel_cases (l : SpiLine) (p : Params) (b : Bool) :
    let new := if b && !l.level && l.cfg.getLsbD 1 then { l with level := b }.latched p else { l with level := b }
    if b = true ∧ l.level = false ∧ l.cfg.getLsbD 1 = true then
      if l.cfg.getLsbD 0 = true then new = { l with level := b, latch1 := true }
      else
        new = { l with level := b, latchN := new.latchN } ∧
        ∀ c : CpuId, new.latchN[c] = (l.latchN[c] || (decide (c.val < p.ncpu) && l.tgt.getLsbD c.val))
    else new = { l with level := b } := by
  simp only [Bool.and_eq_true, Bool.not_eq_true', and_assoc]
  split_ifs with hrise hone
  · exact SpiLine.latched_oneN p hone
  · exact SpiLine.latched_nN p hone
  · rfl

/-- Settles O33: the update of the one line that the event names, whose latch follows a rising edge. -/
theorem levelEvents : Obligations.LevelEvents := by
  intro s rest hfault hrefused
  have hrun := s.halted_eq_none_iff.mpr ⟨hfault, hrefused⟩
  refine ⟨fun c n b hin h16 h32 hcpu => ?_, fun n b hin h32 hmaxl => ?_⟩
  · refine ⟨_, step_setLevelPpi hin hrun (decide_eq_true ⟨h16, h32, hcpu⟩), rfl, ?_⟩
    exact .of_inbox rest (State.linesBecome_updPpi _ c (fun _ _ _ => rfl) (fun _ _ _ => (ite_and ..).symm)
      fun _ _ => rfl)
  · refine ⟨_, step_setLevelSpi hin hrun (decide_eq_true ⟨h32, hmaxl⟩), rfl, ?_⟩
    refine .of_inbox rest (State.linesBecome_updSpi _ (fun _ _ _ => rfl) (fun _ _ _ => rfl) fun m l => ?_)
    by_cases hline : m = n
    · subst hline
      simp only [if_pos hmaxl, if_true]
      exact l.setLevel_cases s.par b
    · simp only [if_neg hline, ite_self]

end Sys2Proof.Machine
end

section
/-! How a block halts (spec/60 R321, R330, R331): the refusal and the fault that a step records, and the steps
after. -/

namespace Sys2Proof.Machine

/-- R321, R331: a Non-secure access at an address of a window is refused before any decode. -/
theorem admissionOf_nonsecure {p : Params} {r : Request} (hcpu : r.cpu.val < p.ncpu) (hsecure : r.secure = false)
    (hwin : windowOf p r.addr ≠ none) : admissionOf p r = .nonsecure := by
  obtain ⟨⟨win, off⟩, hwin⟩ := Option.ne_none_iff_exists'.mp hwin
  simp [admissionOf, Nat.not_le.mpr hcpu, hwin, hsecure]

/-- R330, R331: a halted block answers every event but a reset with what halted it. -/
theorem step_of_halted {s : State} {o : Host.Outcome State Fault Refusal} (hhalt : s.halted = some o)
    (hin : ∀ rest, s.inbox ≠ .reset :: rest) : step s = o := by
  unfold step
  split
  · rw [hhalt, Option.getD_some]
  · exact absurd ‹_› (hin _)
  · rw [hhalt, Option.getD_some]

/-- Settles O39: the access is begun and the refusal recorded, after which the block is halted. -/
theorem nonsecureIsRefused : Obligations.NonsecureIsRefused := by
  intro s r rest hin hfault hrefused hcpu hsecure hwin
  have hadmit : admissionOf s.par r = .nonsecure := admissionOf_nonsecure hcpu hsecure hwin
  have hstep : step s = .next (State.begin { s with inbox := rest } r.cpu).recordRefusal := by
    rw [step_access hin hfault hrefused, performAccess, hadmit]
  exact ⟨_, hstep, rfl, fun hin2 => step_of_halted (by simp [State.halted, hfault]) hin2⟩

/-- R330: the two reads that draw `late` do not fault. -/
theorem State.start_eq_begin_of_fault {s : State} {c : CpuId} {i : Instr} {f : Fault}
    (h : exec i (s.start c i) = .fault f) : s.start c i = s.begin c := by
  refine s.start_other c i ?_ ?_
  · rintro rfl
    exact nomatch h
  · rintro rfl
    exact nomatch h

/-- R330: what records a fault is an access, which is begun and changes nothing more. -/
theorem performAccess_records_fault {r : Request} {s t : State} (hnone : s.fault = none)
    (h : performAccess r s = .next t) {f : Fault} (hf : t.fault = some f) : t = (s.begin r.cpu).recordFault f := by
  obtain ⟨-, ⟨-, rfl⟩ | ⟨-, rfl⟩ | ⟨e, -, rfl⟩ | ⟨i, e, -, hexec, rfl⟩ | ⟨i, -, hexec⟩⟩ := performAccess_next s t r h
  · simp [hnone] at hf
  · simp [hnone] at hf
  · obtain rfl : e = f := by simpa [hnone] using hf
    rfl
  · rw [State.start_eq_begin_of_fault hexec] at hf ⊢
    obtain rfl : e = f := by simpa [hnone] using hf
    rfl
  · rw [(exec_sameOutside hexec).fields] at hf
    simp [hnone] at hf

/-- Settles O40: of all that a step can do, an access alone records a fault, and it is only begun. -/
theorem faultIsRecordedAndHalts : Obligations.FaultIsRecordedAndHalts := by
  intro s t hnone h f hf
  refine ⟨?_, step_of_halted (by simp [State.halted, hf])⟩
  obtain ⟨-, -, rfl⟩ | ⟨rest, -, rfl⟩ | ⟨c, n, b, rest, -, -, -, rfl⟩ | ⟨n, b, rest, -, -, -, rfl⟩ |
    ⟨r, rest, -, -, haccess⟩ := step_next s t h
  · exact nomatch hnone.symm.trans hf
  · exact nomatch hf
  · exact nomatch hnone.symm.trans hf
  · exact nomatch hnone.symm.trans hf
  · rw [performAccess_records_fault (s := { s with inbox := rest }) hnone haccess hf]
    simp [State.begin, State.recordFault, hnone]

end Sys2Proof.Machine
end

section
/-! Reset (spec/10 R53, spec/70 R350, R351): what the reset event leaves, and what the registers read right after it. -/

namespace Sys2Proof.Machine

/- The reset event (R350). -/

/-- R53, R350: a PPI after a reset event is idle, with a drawn configuration and the level it had. -/
theorem State.resetUnder_ppiOf (s : State) (d : ResetDraw) (c : CpuId) {n : Nat} (h16 : 16 ≤ n) (h32 : n < 32) :
    (s.resetUnder d).ppiOf c n = PpiLine.idle ((s.resetUnder d).ppiOf c n).cfg (s.ppiOf c n).level := by
  have hline : (s.resetUnder d).ppiOf c n = PpiLine.idle _ _ := afterReset_ppiOf s.par s.levels d c n h16 h32
  rw [State.levels_ppi s c n h16 h32] at hline
  rw [hline]
  rfl

/-- R53, R350: an SPI after a reset event is idle, with a drawn configuration and the level it had. -/
theorem State.resetUnder_spiOf (s : State) (d : ResetDraw) {n : Nat} (h : n < 256) :
    (s.resetUnder d).spiOf n = SpiLine.idle ((s.resetUnder d).spiOf n).cfg (s.spiOf n).level := by
  have hline : (s.resetUnder d).spiOf n = SpiLine.idle _ _ := afterReset_spiOf s.par s.levels d n h
  rw [State.levels_spi s n h] at hline
  rw [hline]
  rfl

/-- R53: a CPU interface after a reset event is idle, with drawn binary points. -/
theorem State.resetUnder_ifOf (s : State) (d : ResetDraw) (c : CpuId) :
    (s.resetUnder d).ifOf c = CpuIf.idle ((s.resetUnder d).ifOf c).bpr ((s.resetUnder d).ifOf c).abpr := by
  have hif : (s.resetUnder d).ifOf c = CpuIf.idle _ _ := afterReset_ifOf s.par s.levels d c
  rw [hif]
  rfl

/-- Settles O34: the step is the reset event, which leaves every line and interface idle. -/
theorem resetEvent : Obligations.ResetEvent := by
  intro s rest hin
  have hstep : step s = .next (State.resetEvent { s with inbox := rest }) := by
    rw [step, hin]
    rfl
  have hmaxl := maxl_bounds s.par
  refine ⟨_, hstep, rfl, rfl, rfl, rfl, rfl, rfl, ⟨fun c n _ => ?_, fun c n h16 h32 => ?_, fun n _ hn => ?_⟩,
    fun c => ?_⟩
  · exact afterReset_sgiOf s.par _ _ c n
  · exact State.resetUnder_ppiOf _ _ c h16 h32
  · exact State.resetUnder_spiOf { s with inbox := rest } _ (hn.trans_le hmaxl.2)
  · exact State.resetUnder_ifOf ..

end Sys2Proof.Machine
end

section
/-! What an idle block's registers read (spec/10 R53, R55, spec/70 R351), whatever its input levels and its drawn
fields. -/

namespace Sys2Proof.Machine

/- Words whose bits or fields are all alike (R170, R200). -/

theorem bitword_eq_zero {maxl k : Nat} {f : Nat → Bool} (hf : ∀ j, f (32 * k + j) = false) : bitword maxl k f = 0 :=
  List.foldl_fixed' (fun j => by simp [hf]) _

theorem fieldword_eq_zero {maxl k : Nat} {d : Density} {f : Nat → Word} (hf : ∀ j, f (d.fields * k + j) = 0) :
    fieldword maxl k d f = 0 :=
  List.foldl_fixed' (fun j => by simp [hf]) _

/-- A word of implemented IDs that all have the field `w`. -/
theorem fieldword_eq_of_forall {maxl k : Nat} {d : Density} {f : Nat → Word} {w : Word}
    (hmaxl : d.fields * k + d.fields ≤ maxl) (hf : ∀ j, j < d.fields → f (d.fields * k + j) = w) :
    fieldword maxl k d f = fieldword d.fields 0 d fun _ => w := by
  refine List.foldl_ext _ _ _ fun x j hj => ?_
  have hj : j < d.fields := List.mem_range.mp hj
  rw [if_pos (by omega), hf j hj, if_pos (by omega)]

/-- R173: the word that shows the IDs of the SGIs. -/
theorem bitword_sgis {maxl : Nat} (hmaxl : 32 ≤ maxl) (k : Nat) :
    bitword maxl k (fun n => decide (n < 16)) = if k = 0 then 0x0000FFFF else 0 := by
  split_ifs with hk
  · subst hk
    apply BitVec.eq_of_getLsbD_eq
    intro j hj
    have hones : (0x0000FFFF : Word).getLsbD j = decide (j < 16) := lowOnes_getLsbD .d2 j
    rw [bitword_getLsbD, hones, Nat.mul_zero, Nat.zero_add]
    simp [hj, hj.trans_le hmaxl]
  · exact bitword_eq_zero fun j => decide_eq_false (by omega)

/-- R203: the word of four fields that each name CPU `c`. -/
theorem fieldword_cpuBit : ∀ c : CpuId,
    (fieldword 4 0 .d4 fun _ => (cpuBit c).setWidth 32) = 0x01010101 * BitVec.ofNat 32 (2 ^ c.val) := by
  decide

/- An idle block. -/

/-- Every line, interface and enable is at its reset value (R53); configurations, binary points and levels are any. -/
structure State.Idle (s : State) : Prop where
  dcrEn0 : s.dcrEn0 = false
  dcrEn1 : s.dcrEn1 = false
  sgi : ∀ (c : CpuId) n, s.sgiOf c n = SgiLine.idle
  ppi : ∀ (c : CpuId) n, 16 ≤ n → n < 32 → ∃ cfg level, s.ppiOf c n = PpiLine.idle cfg level
  spi : ∀ n, 32 ≤ n → ∃ cfg level, s.spiOf n = SpiLine.idle cfg level
  cpuIf : ∀ c, ∃ bpr abpr, s.ifOf c = CpuIf.idle bpr abpr

/-- R53: the block is idle after reset. -/
theorem State.afterReset_idle (par : Params) (lv : Levels) (d : ResetDraw) : (State.afterReset par lv d).Idle where
  dcrEn0 := rfl
  dcrEn1 := rfl
  sgi := afterReset_sgiOf par lv d
  ppi c n h16 h32 := ⟨_, _, afterReset_ppiOf par lv d c n h16 h32⟩
  spi n _ := by
    by_cases hn : n < 256
    · exact ⟨_, _, afterReset_spiOf par lv d n hn⟩
    · exact ⟨_, _, tabGet_of_le _ _ _ (by omega)⟩
  cpuIf c := ⟨_, _, afterReset_ifOf par lv d c⟩

/-- What the reads of the Distributor show CPU `c` of line `n` in an idle block. -/
structure State.ShowsIdle (s : State) (c : CpuId) (n : Nat) : Prop where
  sec : s.sec c n = false
  prio : s.prio c n = 0
  en : s.en c n = decide (n < 16)
  act : s.actView c n = false
  target : s.targetView c n = if n < 32 then cpuBit c else 0
  pend : s.pendView c n = true ↔
    16 ≤ n ∧ s.isLevel c n = true ∧ (if n < 32 then (s.ppiOf c n).level else (s.spiOf n).level) = true

/-- The views of an idle line, by the class of its ID. -/
theorem State.Idle.shows {s : State} (h : s.Idle) (c : CpuId) (n : Nat) : s.ShowsIdle c n := by
  by_cases h16 : n < 16
  · have h32 : n < 32 := by omega
    constructor <;> simp [State.sec, State.prio, State.en, State.actView, State.targetView, State.pendView, h.sgi,
      SgiLine.idle, h16, h32]
  by_cases h32 : n < 32
  · obtain ⟨cfg, level, hline⟩ := h.ppi c n (Nat.not_lt.mp h16) h32
    constructor <;> simp [State.sec, State.prio, State.en, State.actView, State.targetView, State.pendView, hline,
      PpiLine.idle, h16, h32, Nat.not_lt.mp h16]
  · obtain ⟨cfg, level, hline⟩ := h.spi n (Nat.not_lt.mp h32)
    constructor <;> simp [State.sec, State.prio, State.en, State.actView, State.targetView, State.pendView, hline,
      SpiLine.idle, h16, h32, Nat.not_lt.mp h16]

/-- R203: a word of the target array in an idle block. -/
theorem State.Idle.fieldword_targetView {s : State} (h : s.Idle) (c : CpuId) (k : Nat) :
    fieldword s.par.maxl k .d4 (fun n => (s.targetView c n).setWidth 32) =
      if k ≤ 7 then 0x01010101 * BitVec.ofNat 32 (2 ^ c.val) else 0 := by
  have hmaxl := maxl_bounds s.par
  split_ifs with hk
  · rw [← fieldword_cpuBit]
    refine fieldword_eq_of_forall (d := .d4) (show 4 * k + 4 ≤ s.par.maxl by omega) fun j (hj : j < 4) => ?_
    exact congrArg (BitVec.setWidth 32) ((h.shows c _).target.trans (if_pos (show 4 * k + j < 32 by omega)))
  · refine fieldword_eq_zero fun j => ?_
    exact congrArg (BitVec.setWidth 32) ((h.shows c _).target.trans (if_neg (show ¬ 4 * k + j < 32 by omega)))

/-- R205: word 0 of the configuration array, which holds the SGIs. -/
theorem State.fieldword_cfgOf_sgis (s : State) (c : CpuId) :
    fieldword s.par.maxl 0 .d16 (fun n => (s.cfgOf c n).setWidth 32) = 0xAAAAAAAA := by
  have hmaxl := maxl_bounds s.par
  have hword : fieldword s.par.maxl 0 .d16 (fun n => (s.cfgOf c n).setWidth 32) = fieldword 16 0 .d16 fun _ => 2 := by
    refine fieldword_eq_of_forall (d := .d16) (show 16 * 0 + 16 ≤ s.par.maxl by omega) fun j (hj : j < 16) => ?_
    exact congrArg (BitVec.setWidth 32) (if_pos (show 16 * 0 + j < 16 by omega))
  rw [hword]
  decide

/-- R246: with no candidate the highest-pending read is spurious, late or not. -/
theorem exec_rdIcchpir_of_no_cand {s : State} (h : s.cand s.cpu = []) :
    exec .rdIcchpir s = .next (s.ret spuriousId) := by
  have hpeek : s.highestPending s.late (Config.drawTie s.draws) = spuriousId := by
    rcases s.late.eq_false_or_eq_true with hlate | htimely
    · rw [hlate]
      rfl
    · rw [htimely, s.highestPending_of_no_cand h]
  exact congrArg (fun w => Host.Outcome.next (s.ret w)) hpeek

/-- A read that returns the word it should. -/
theorem exec_read_eq {s : State} {i : Instr} {w w2 : Word} (hread : exec i s = .next (s.ret w)) (hw : w = w2) :
    exec i s = .next { s with rdata := some w2 } := hw ▸ hread

/-- Settles O35: the block is idle after reset, forwards nothing, and shows idle lines and interfaces. -/
theorem readsAfterReset : Obligations.ReadsAfterReset := by
  intro par lv d c late s
  have hreset := State.afterReset_idle par lv d
  have hidle : s.Idle := ⟨rfl, rfl, hreset.sgi, hreset.ppi, hreset.spi, hreset.cpuIf⟩
  have hshows := hidle.shows s.cpu
  have hen : s.en s.cpu = fun n => decide (n < 16) := funext fun n => (hshows n).en
  have hcand : ∀ c2, s.cand c2 = [] := State.cand_eq_nil_of_disabled rfl rfl
  obtain ⟨bpr, abpr, hif⟩ := hidle.cpuIf s.cpu
  have henables (k : Nat) : bitword s.par.maxl k (s.en s.cpu) = if k = 0 then 0x0000FFFF else 0 := by
    rw [hen, bitword_sgis (maxl_bounds s.par).1]
  refine ⟨hcand, exec_read_eq rfl ?_, ⟨_, rfl, typeWord_toNat par⟩, fun k => ?_,
    fun k => ⟨exec_read_eq rfl ?_, exec_read_eq rfl ?_, exec_read_eq rfl ?_, exec_read_eq rfl (henables k),
      exec_read_eq rfl (henables k), exec_read_eq rfl (hidle.fieldword_targetView c k)⟩,
    exec_read_eq rfl (s.fieldword_cfgOf_sgis c), exec_read_eq rfl ?_, exec_read_eq rfl ?_,
    exec_rdIcciar_of_no_cand (hcand c), exec_read_eq rfl ?_, exec_rdIcchpir_of_no_cand (hcand c)⟩
  · rw [State.dcrWord, hidle.dcrEn0, hidle.dcrEn1]
    rfl
  · exact State.returnsBits_of_readBits rfl fun n => (hshows n).pend
  · exact bitword_eq_zero fun _ => (hshows _).sec
  · exact bitword_eq_zero fun _ => (hshows _).act
  · exact fieldword_eq_zero fun _ => congrArg (BitVec.setWidth 32) (hshows _).prio
  · simp [hif, CpuIf.idle, Icr.word]
  · rw [hif]
    rfl
  · rw [State.runningPrio_of_nil (congrArg CpuIf.stk hif)]
    rfl

end Sys2Proof.Machine
end
